-- ==== Sys2Proof/Word.lean ====
section
/-! DEFINITION. The word types of the block (spec/10_state.md R21 to R31, spec/00_scope.md R7: DATA_W 8, TIMER_W 16). -/

namespace Sys2Proof

/-- A register, port or track byte (R7, DATA_W). -/
abbrev Byte := BitVec 8

/-- A timer counter or latch (R7, TIMER_W). -/
abbrev Word16 := BitVec 16

/-- The seven interrupt flags or enables, bits 6:0 (R30, R31). -/
abbrev Flags := BitVec 7

/-- A number reduced to a byte on entry (spec/20_memory.md R71). -/
abbrev byteOf (n : Nat) : Byte := BitVec.ofNat 8 n

end Sys2Proof
end

