-- ==== Sys2Proof/Syntax.lean ====
section
/-! DEFINITION. The operations of the block (spec/30_encoding.md R103, spec/opcode_table.json), one constructor per row,
with the operands R103 gives each, and the request in which an operation arrives (R102). -/

namespace Sys2Proof

/-- The chip a class 00 or class 01 operation addresses (R102, R112): a standalone PIC, or PIC1 or PIC2 of drive `d`. -/
inductive ChipRef where
  | standalone
  | pic1 (d : Nat)
  | pic2 (d : Nat)
  deriving DecidableEq, Repr

/-- One sector of a disk image: its track (1-based), its number on the track (0-based) and its bytes. -/
structure ImageSector where
  track : Nat
  sector : Nat
  bytes : List Byte
  deriving DecidableEq, Repr

/-- A disk image as the block sees it (spec/44_gcr_track_sync.md R265): a function from track and sector to 256 bytes.
The sectors that are not blank are listed; a sector that is not listed holds 256 zero bytes (log 13). -/
abbrev Image := List ImageSector

/-- The operations of the block, one constructor per row of the opcode table. -/
inductive Instr where
  -- class 00, register reads (spec/40_pic_registers.md R133 to R148)
  | rdOrb (c : ChipRef)
  | rdOra (c : ChipRef)
  | rdDdrb (c : ChipRef)
  | rdDdra (c : ChipRef)
  | rdT1cl (c : ChipRef)
  | rdT1ch (c : ChipRef)
  | rdT1ll (c : ChipRef)
  | rdT1lh (c : ChipRef)
  | rdT2cl (c : ChipRef)
  | rdT2ch (c : ChipRef)
  | rdSr (c : ChipRef)
  | rdAcr (c : ChipRef)
  | rdPcr (c : ChipRef)
  | rdIfr (c : ChipRef)
  | rdIer (c : ChipRef)
  | rdOranh (c : ChipRef)
  -- class 00, register writes (spec/40_pic_registers.md R149 to R164)
  | wrOrb (c : ChipRef) (v : Byte)
  | wrOra (c : ChipRef) (v : Byte)
  | wrDdrb (c : ChipRef) (v : Byte)
  | wrDdra (c : ChipRef) (v : Byte)
  | wrT1cl (c : ChipRef) (v : Byte)
  | wrT1ch (c : ChipRef) (v : Byte)
  | wrT1ll (c : ChipRef) (v : Byte)
  | wrT1lh (c : ChipRef) (v : Byte)
  | wrT2cl (c : ChipRef) (v : Byte)
  | wrT2ch (c : ChipRef) (v : Byte)
  | wrSr (c : ChipRef) (v : Byte)
  | wrAcr (c : ChipRef) (v : Byte)
  | wrPcr (c : ChipRef) (v : Byte)
  | wrIfr (c : ChipRef) (v : Byte)
  | wrIer (c : ChipRef) (v : Byte)
  | wrOranh (c : ChipRef) (v : Byte)
  -- class 01, chip pins and clock (spec/41_pic_timers_lines.md, spec/70_reset_and_hazards.md R350)
  | setCa1 (c : ChipRef) (level : Bool)
  | setCa2 (c : ChipRef) (level : Bool)
  | setCb1 (c : ChipRef) (level : Bool)
  | setCb2 (c : ChipRef) (level : Bool)
  | setPaIn (c : ChipRef) (v : Byte)
  | setPbIn (c : ChipRef) (v : Byte)
  | tick (c : ChipRef) (n : Nat)
  | resetPic (c : ChipRef)
  -- class 10, bus and drive (spec/42_serial_bus.md, spec/45_drive_mechanics_map.md)
  | hostSet (atn clk data : Bool)
  | busUpdate
  | busGetHostInput
  | busTick (n : Nat)
  | busAttach (d : Nat)
  | busDetach (d : Nat)
  | drvGetClkOut (d : Nat)
  | drvGetDataOut (d : Nat)
  | drvSetAtnIn (d : Nat) (line : Bool)
  | drvSetClkIn (d : Nat) (line : Bool)
  | drvSetDataIn (d : Nat) (line : Bool)
  | drvTick (d n : Nat)
  | drvMemrd (d addr : Nat)
  | drvMemwr (d addr : Nat) (v : Byte)
  | drvInsert (d : Nat) (image : Image) (id1 id2 : Byte)
  | drvEject (d : Nat)
  | drvSetWp (d : Nat) (b : Bool)
  | reset
  | mechWrite (d : Nat) (v : Byte)
  -- class 11, codec and track (spec/43_gcr_codec.md, spec/44_gcr_track_sync.md)
  | gcrEncGroup (b0 b1 b2 b3 : Byte)
  | gcrDecGroup (g0 g1 g2 g3 g4 : Byte)
  | gcrEncHeader (track sector id1 id2 : Byte)
  | gcrDecHeader (frame : List Byte)
  | gcrEncData (payload : List Byte)
  | gcrDecData (frame : List Byte)
  | trkReadByte (d t : Nat)
  | trkWriteByte (d t : Nat) (v : Byte)
  | trkIsSync (d t : Nat)
  | trkBuild (d t : Nat) (image : Image) (id1 id2 : Byte)
  | trkUpdateSector (d t : Nat) (image : Image) (sector : Nat) (id1 id2 : Byte)
  deriving DecidableEq, Repr

/-- The unit whose chips a class 00 or class 01 request addresses (log 3). -/
inductive UnitRef where
  | standalone
  | drive (d : Nat)
  deriving DecidableEq, Repr

/-- An operation as the environment issues it (R102): the addressed unit, the 8-bit selector OPSEL, and the operands,
which are separate arguments and are not packed into bits (log 2). -/
structure Request where
  unit : UnitRef
  opsel : BitVec 8
  args : List Nat
  deriving DecidableEq, Repr

end Sys2Proof
end

