-- ==== Sys2Proof/WellFormed.lean ====
section
/-! DEFINITION. Which operations are well formed: the operand lists have the lengths that spec/43_gcr_codec.md R230 and
spec/44_gcr_track_sync.md R265 fix (spec/93_implementation_defined.md U8, U14). -/

namespace Sys2Proof

/-- Every listed sector of the image gives 256 bytes (R265, U14). -/
def Image.wellFormed (image : Image) : Bool := image.all fun e => e.bytes.length == 256

/-- Operand lists have the length the operation takes (U8, U14). The other operands are of the stated types by
construction. -/
def Instr.wellFormed : Instr → Bool
  | .gcrDecHeader frame => frame.length == 10
  | .gcrEncData payload => payload.length == 256
  | .gcrDecData frame => frame.length == 325
  | .drvInsert _ image _ _ => Image.wellFormed image
  | .trkBuild _ _ image _ _ => Image.wellFormed image
  | .trkUpdateSector _ _ image _ _ _ => Image.wellFormed image
  | .rdOrb _ | .rdOra _ | .rdDdrb _ | .rdDdra _ | .rdT1cl _ | .rdT1ch _ | .rdT1ll _ | .rdT1lh _
  | .rdT2cl _ | .rdT2ch _ | .rdSr _ | .rdAcr _ | .rdPcr _ | .rdIfr _ | .rdIer _ | .rdOranh _
  | .wrOrb _ _ | .wrOra _ _ | .wrDdrb _ _ | .wrDdra _ _ | .wrT1cl _ _ | .wrT1ch _ _ | .wrT1ll _ _ | .wrT1lh _ _
  | .wrT2cl _ _ | .wrT2ch _ _ | .wrSr _ _ | .wrAcr _ _ | .wrPcr _ _ | .wrIfr _ _ | .wrIer _ _ | .wrOranh _ _
  | .setCa1 _ _ | .setCa2 _ _ | .setCb1 _ _ | .setCb2 _ _ | .setPaIn _ _ | .setPbIn _ _ | .tick _ _ | .resetPic _
  | .hostSet _ _ _ | .busUpdate | .busGetHostInput | .busTick _ | .busAttach _ | .busDetach _
  | .drvGetClkOut _ | .drvGetDataOut _ | .drvSetAtnIn _ _ | .drvSetClkIn _ _ | .drvSetDataIn _ _
  | .drvTick _ _ | .drvMemrd _ _ | .drvMemwr _ _ _ | .drvEject _ | .drvSetWp _ _ | .reset | .mechWrite _ _
  | .gcrEncGroup _ _ _ _ | .gcrDecGroup _ _ _ _ _ | .gcrEncHeader _ _ _ _
  | .trkReadByte _ _ | .trkWriteByte _ _ _ | .trkIsSync _ _ => true

end Sys2Proof
end

