-- ==== Sys2Proof/Decode.lean ====
section
/-! DEFINITION. The decoder from a request to an operation and the encoder back, written from the opcode map of
spec/30_encoding.md R102 and R103 and from spec/opcode_table.json. -/

namespace Sys2Proof

/-- Why a request is no operation of the block. All are refusals of the model: there is no hardware behaviour behind
them (spec/93_implementation_defined.md U8, U10). -/
inductive DecodeError where
  /-- A reserved selector (R110, U10). -/
  | reservedSelector
  /-- `s` = 1 on a kind without a level (R110, U10). -/
  | levelNotTaken
  /-- The selector names chip 1 of a standalone PIC, whose `c` is 0 (R102). -/
  | standaloneSecondChip
  /-- An operand list of the wrong length (U8). -/
  | operandCount
  deriving DecidableEq, Repr

/-- A Boolean operand, reduced to one bit on entry (spec/92_eei_decisions.md D1). -/
def levelOf (n : Nat) : Bool := n.testBit 0

/-! ### Operand lists -/

def take0 (i : Instr) : List Nat → Except DecodeError Instr
  | [] => .ok i
  | _ => .error .operandCount

def take1 (f : Nat → Instr) : List Nat → Except DecodeError Instr
  | [a] => .ok (f a)
  | _ => .error .operandCount

def take2 (f : Nat → Nat → Instr) : List Nat → Except DecodeError Instr
  | [a, b] => .ok (f a b)
  | _ => .error .operandCount

def take3 (f : Nat → Nat → Nat → Instr) : List Nat → Except DecodeError Instr
  | [a, b, c] => .ok (f a b c)
  | _ => .error .operandCount

def take4 (f : Nat → Nat → Nat → Nat → Instr) : List Nat → Except DecodeError Instr
  | [a, b, c, d] => .ok (f a b c d)
  | _ => .error .operandCount

def take5 (f : Nat → Nat → Nat → Nat → Nat → Instr) : List Nat → Except DecodeError Instr
  | [a, b, c, d, e] => .ok (f a b c d e)
  | _ => .error .operandCount

/-- An operand of exactly `n` bytes. -/
def takeBytes (n : Nat) (f : List Byte → Instr) (args : List Nat) : Except DecodeError Instr :=
  if args.length = n then .ok (f (args.map byteOf)) else .error .operandCount

/-- The listed sectors of an image operand: each is its track, its sector and 256 bytes (log 2). -/
def takeSectors : Nat → List Nat → Option (Image × List Nat)
  | 0, args => some ([], args)
  | k + 1, t :: s :: rest =>
    if rest.length < 256 then none
    else
      match takeSectors k (rest.drop 256) with
      | some (image, left) => some (⟨t, s, (rest.take 256).map byteOf⟩ :: image, left)
      | none => none
  | _ + 1, _ => none

/-- An image operand (its number of listed sectors, then the sectors) and the operands after it. -/
def takeImage (f : Image → List Nat → Except DecodeError Instr) : List Nat → Except DecodeError Instr
  | [] => .error .operandCount
  | k :: args =>
    match takeSectors k args with
    | some (image, left) => f image left
    | none => .error .operandCount

/-! ### The opcode map -/

/-- The register reads, by register index (R103, class 00, `w` = 0). -/
def readInstr (index : Nat) (c : ChipRef) : Instr :=
  match index with
  | 0 => .rdOrb c
  | 1 => .rdOra c
  | 2 => .rdDdrb c
  | 3 => .rdDdra c
  | 4 => .rdT1cl c
  | 5 => .rdT1ch c
  | 6 => .rdT1ll c
  | 7 => .rdT1lh c
  | 8 => .rdT2cl c
  | 9 => .rdT2ch c
  | 10 => .rdSr c
  | 11 => .rdAcr c
  | 12 => .rdPcr c
  | 13 => .rdIfr c
  | 14 => .rdIer c
  | _ => .rdOranh c

/-- The register writes, by register index (R103, class 00, `w` = 1). -/
def writeInstr (index : Nat) (c : ChipRef) (v : Byte) : Instr :=
  match index with
  | 0 => .wrOrb c v
  | 1 => .wrOra c v
  | 2 => .wrDdrb c v
  | 3 => .wrDdra c v
  | 4 => .wrT1cl c v
  | 5 => .wrT1ch c v
  | 6 => .wrT1ll c v
  | 7 => .wrT1lh c v
  | 8 => .wrT2cl c v
  | 9 => .wrT2ch c v
  | 10 => .wrSr c v
  | 11 => .wrAcr c v
  | 12 => .wrPcr c v
  | 13 => .wrIfr c v
  | 14 => .wrIer c v
  | _ => .wrOranh c v

/-- The chip a unit and the selector's `c` bit name (R102: a standalone PIC has `c` = 0). -/
def chipOf : UnitRef → Bool → Except DecodeError ChipRef
  | .standalone, false => .ok .standalone
  | .standalone, true => .error .standaloneSecondChip
  | .drive d, false => .ok (.pic1 d)
  | .drive d, true => .ok (.pic2 d)

/-- Class 00: `OPSEL[5:0]` = `w c rrrr` (R102). -/
def decodeAccess (r : Request) : Except DecodeError Instr :=
  match chipOf r.unit (r.opsel.getLsbD 4) with
  | .error e => .error e
  | .ok c =>
    if r.opsel.getLsbD 5 then take1 (fun v => writeInstr (r.opsel.extractLsb' 0 4).toNat c (byteOf v)) r.args
    else take0 (readInstr (r.opsel.extractLsb' 0 4).toNat c) r.args

/-- Class 01: `OPSEL[5:0]` = `c kkkk s` (R102). -/
def decodePins (r : Request) : Except DecodeError Instr :=
  match chipOf r.unit (r.opsel.getLsbD 5) with
  | .error e => .error e
  | .ok c =>
    match (r.opsel.extractLsb' 1 4).toNat, r.opsel.getLsbD 0 with
    | 0, s => take0 (.setCa1 c s) r.args
    | 1, s => take0 (.setCa2 c s) r.args
    | 2, s => take0 (.setCb1 c s) r.args
    | 3, s => take0 (.setCb2 c s) r.args
    | 4, false => take1 (fun v => .setPaIn c (byteOf v)) r.args
    | 5, false => take1 (fun v => .setPbIn c (byteOf v)) r.args
    | 6, false => take1 (fun n => .tick c n) r.args
    | 7, false => take0 (.resetPic c) r.args
    | 4, true => .error .levelNotTaken
    | 5, true => .error .levelNotTaken
    | 6, true => .error .levelNotTaken
    | 7, true => .error .levelNotTaken
    | _, _ => .error .reservedSelector

/-- Class 10: `OPSEL[5:0]` = `kkkkkk` (R102). -/
def decodeBus (r : Request) : Except DecodeError Instr :=
  match (r.opsel.extractLsb' 0 6).toNat with
  | 0 => take3 (fun a k d => .hostSet (levelOf a) (levelOf k) (levelOf d)) r.args
  | 1 => take0 .busUpdate r.args
  | 2 => take0 .busGetHostInput r.args
  | 3 => take1 .busTick r.args
  | 4 => take1 .busAttach r.args
  | 5 => take1 .busDetach r.args
  | 6 => take1 .drvGetClkOut r.args
  | 7 => take1 .drvGetDataOut r.args
  | 8 => take2 (fun d l => .drvSetAtnIn d (levelOf l)) r.args
  | 9 => take2 (fun d l => .drvSetClkIn d (levelOf l)) r.args
  | 10 => take2 (fun d l => .drvSetDataIn d (levelOf l)) r.args
  | 11 => take2 .drvTick r.args
  | 12 => take2 .drvMemrd r.args
  | 13 => take3 (fun d a v => .drvMemwr d a (byteOf v)) r.args
  | 14 =>
    match r.args with
    | d :: rest => takeImage (fun image => take2 fun i1 i2 => .drvInsert d image (byteOf i1) (byteOf i2)) rest
    | [] => .error .operandCount
  | 15 => take1 .drvEject r.args
  | 16 => take2 (fun d b => .drvSetWp d (levelOf b)) r.args
  | 17 => take0 .reset r.args
  | 18 => take2 (fun d v => .mechWrite d (byteOf v)) r.args
  | _ => .error .reservedSelector

/-- Class 11: `OPSEL[5:0]` = `kkkkkk` (R102). -/
def decodeCodec (r : Request) : Except DecodeError Instr :=
  match (r.opsel.extractLsb' 0 6).toNat with
  | 0 => take4 (fun a b c d => .gcrEncGroup (byteOf a) (byteOf b) (byteOf c) (byteOf d)) r.args
  | 1 => take5 (fun a b c d e => .gcrDecGroup (byteOf a) (byteOf b) (byteOf c) (byteOf d) (byteOf e)) r.args
  | 2 => take4 (fun t s i1 i2 => .gcrEncHeader (byteOf t) (byteOf s) (byteOf i1) (byteOf i2)) r.args
  | 3 => takeBytes 10 .gcrDecHeader r.args
  | 4 => takeBytes 256 .gcrEncData r.args
  | 5 => takeBytes 325 .gcrDecData r.args
  | 6 => take2 .trkReadByte r.args
  | 7 => take3 (fun d t v => .trkWriteByte d t (byteOf v)) r.args
  | 8 => take2 .trkIsSync r.args
  | 9 =>
    match r.args with
    | d :: t :: rest => takeImage (fun image => take2 fun i1 i2 => .trkBuild d t image (byteOf i1) (byteOf i2)) rest
    | _ => .error .operandCount
  | 10 =>
    match r.args with
    | d :: t :: rest =>
      takeImage (fun image => take3 fun n i1 i2 => .trkUpdateSector d t image n (byteOf i1) (byteOf i2)) rest
    | _ => .error .operandCount
  | _ => .error .reservedSelector

/-- The decoder: bits 7:6 of the selector are the class (R102). It is total on every request. -/
def decode (r : Request) : Except DecodeError Instr :=
  match (r.opsel.extractLsb' 6 2).toNat with
  | 0 => decodeAccess r
  | 1 => decodePins r
  | 2 => decodeBus r
  | _ => decodeCodec r

/-! ### The encoder -/

/-- The unit and `c` bit of a chip (R102). -/
def ChipRef.unitRef : ChipRef → UnitRef
  | .standalone => .standalone
  | .pic1 d => .drive d
  | .pic2 d => .drive d

/-- The selector's `c` bit of a chip (R102). -/
def ChipRef.second : ChipRef → Bool
  | .pic2 _ => true
  | _ => false

/-- A class 00 request: `00 w c rrrr` (R102). -/
def accessRequest (w : Bool) (index : BitVec 4) (c : ChipRef) (args : List Nat) : Request :=
  ⟨c.unitRef, 0b00#2 ++ BitVec.ofBool w ++ BitVec.ofBool c.second ++ index, args⟩

/-- A class 01 request: `01 c kkkk s` (R102). -/
def pinRequest (kind : BitVec 4) (s : Bool) (c : ChipRef) (args : List Nat) : Request :=
  ⟨c.unitRef, 0b01#2 ++ BitVec.ofBool c.second ++ kind ++ BitVec.ofBool s, args⟩

/-- A class 10 or class 11 request: `1x kkkkkk` (R102). It addresses no chip; its unit is not read. -/
def kindRequest (cls : BitVec 2) (kind : BitVec 6) (args : List Nat) : Request :=
  ⟨.drive 0, cls ++ kind, args⟩

/-- A Boolean operand. -/
def levelArg (b : Bool) : Nat := b.toNat

/-- A byte-string operand. -/
def bytesArg (bytes : List Byte) : List Nat := bytes.map BitVec.toNat

/-- The listed sectors of an image operand. -/
def sectorsArg : Image → List Nat
  | [] => []
  | e :: image => e.track :: e.sector :: (bytesArg e.bytes ++ sectorsArg image)

/-- An image operand: its number of listed sectors, then the sectors (log 2). -/
def imageArg (image : Image) : List Nat := image.length :: sectorsArg image

/-- The request of an operation (R103). -/
def encode : Instr → Request
  | .rdOrb c => accessRequest false 0 c []
  | .rdOra c => accessRequest false 1 c []
  | .rdDdrb c => accessRequest false 2 c []
  | .rdDdra c => accessRequest false 3 c []
  | .rdT1cl c => accessRequest false 4 c []
  | .rdT1ch c => accessRequest false 5 c []
  | .rdT1ll c => accessRequest false 6 c []
  | .rdT1lh c => accessRequest false 7 c []
  | .rdT2cl c => accessRequest false 8 c []
  | .rdT2ch c => accessRequest false 9 c []
  | .rdSr c => accessRequest false 10 c []
  | .rdAcr c => accessRequest false 11 c []
  | .rdPcr c => accessRequest false 12 c []
  | .rdIfr c => accessRequest false 13 c []
  | .rdIer c => accessRequest false 14 c []
  | .rdOranh c => accessRequest false 15 c []
  | .wrOrb c v => accessRequest true 0 c [v.toNat]
  | .wrOra c v => accessRequest true 1 c [v.toNat]
  | .wrDdrb c v => accessRequest true 2 c [v.toNat]
  | .wrDdra c v => accessRequest true 3 c [v.toNat]
  | .wrT1cl c v => accessRequest true 4 c [v.toNat]
  | .wrT1ch c v => accessRequest true 5 c [v.toNat]
  | .wrT1ll c v => accessRequest true 6 c [v.toNat]
  | .wrT1lh c v => accessRequest true 7 c [v.toNat]
  | .wrT2cl c v => accessRequest true 8 c [v.toNat]
  | .wrT2ch c v => accessRequest true 9 c [v.toNat]
  | .wrSr c v => accessRequest true 10 c [v.toNat]
  | .wrAcr c v => accessRequest true 11 c [v.toNat]
  | .wrPcr c v => accessRequest true 12 c [v.toNat]
  | .wrIfr c v => accessRequest true 13 c [v.toNat]
  | .wrIer c v => accessRequest true 14 c [v.toNat]
  | .wrOranh c v => accessRequest true 15 c [v.toNat]
  | .setCa1 c s => pinRequest 0 s c []
  | .setCa2 c s => pinRequest 1 s c []
  | .setCb1 c s => pinRequest 2 s c []
  | .setCb2 c s => pinRequest 3 s c []
  | .setPaIn c v => pinRequest 4 false c [v.toNat]
  | .setPbIn c v => pinRequest 5 false c [v.toNat]
  | .tick c n => pinRequest 6 false c [n]
  | .resetPic c => pinRequest 7 false c []
  | .hostSet a k d => kindRequest 0b10 0 [levelArg a, levelArg k, levelArg d]
  | .busUpdate => kindRequest 0b10 1 []
  | .busGetHostInput => kindRequest 0b10 2 []
  | .busTick n => kindRequest 0b10 3 [n]
  | .busAttach d => kindRequest 0b10 4 [d]
  | .busDetach d => kindRequest 0b10 5 [d]
  | .drvGetClkOut d => kindRequest 0b10 6 [d]
  | .drvGetDataOut d => kindRequest 0b10 7 [d]
  | .drvSetAtnIn d l => kindRequest 0b10 8 [d, levelArg l]
  | .drvSetClkIn d l => kindRequest 0b10 9 [d, levelArg l]
  | .drvSetDataIn d l => kindRequest 0b10 10 [d, levelArg l]
  | .drvTick d n => kindRequest 0b10 11 [d, n]
  | .drvMemrd d a => kindRequest 0b10 12 [d, a]
  | .drvMemwr d a v => kindRequest 0b10 13 [d, a, v.toNat]
  | .drvInsert d image i1 i2 => kindRequest 0b10 14 (d :: (imageArg image ++ [i1.toNat, i2.toNat]))
  | .drvEject d => kindRequest 0b10 15 [d]
  | .drvSetWp d b => kindRequest 0b10 16 [d, levelArg b]
  | .reset => kindRequest 0b10 17 []
  | .mechWrite d v => kindRequest 0b10 18 [d, v.toNat]
  | .gcrEncGroup a b c d => kindRequest 0b11 0 (bytesArg [a, b, c, d])
  | .gcrDecGroup a b c d e => kindRequest 0b11 1 (bytesArg [a, b, c, d, e])
  | .gcrEncHeader t s i1 i2 => kindRequest 0b11 2 (bytesArg [t, s, i1, i2])
  | .gcrDecHeader frame => kindRequest 0b11 3 (bytesArg frame)
  | .gcrEncData payload => kindRequest 0b11 4 (bytesArg payload)
  | .gcrDecData frame => kindRequest 0b11 5 (bytesArg frame)
  | .trkReadByte d t => kindRequest 0b11 6 [d, t]
  | .trkWriteByte d t v => kindRequest 0b11 7 [d, t, v.toNat]
  | .trkIsSync d t => kindRequest 0b11 8 [d, t]
  | .trkBuild d t image i1 i2 => kindRequest 0b11 9 (d :: t :: (imageArg image ++ [i1.toNat, i2.toNat]))
  | .trkUpdateSector d t image n i1 i2 =>
    kindRequest 0b11 10 (d :: t :: (imageArg image ++ [n, i1.toNat, i2.toNat]))

/-! ### The opcode table's words -/

/-- How many operand words an operation takes when every operand word is zero (R103): an image of no listed sectors is
the one word 0. -/
def zeroOperands (opsel : BitVec 8) : Nat :=
  match (opsel.extractLsb' 6 2).toNat, (opsel.extractLsb' 0 6).toNat with
  | 0, k => if k < 32 then 0 else 1
  | 1, k => if (k % 32) / 2 < 4 ∨ (k % 32) / 2 = 7 then 0 else 1
  | 2, k => [3, 0, 0, 1, 1, 1, 1, 1, 2, 2, 2, 2, 2, 3, 4, 1, 2, 0, 2].getD k 0
  | _, k => [4, 5, 4, 10, 256, 325, 2, 3, 2, 5, 6].getD k 0

/-- `n` operand words, a byte each, from the bits above the selector. -/
def wordOperands : Nat → Nat → List Nat
  | 0, _ => []
  | n + 1, w => w % 256 :: wordOperands n (w / 256)

/-- The request of a table word: the selector is the first byte, the operand words are the bytes above it (zero where
the table gives none), and the addressed unit is drive 0. -/
def tableRequest (nbits w : Nat) : Request :=
  let bits := w % 2 ^ nbits
  let opsel : BitVec 8 := BitVec.ofNat 8 bits
  ⟨.drive 0, opsel, wordOperands (zeroOperands opsel) (bits / 256)⟩

/-- The operation that the decoder reads from a table word. -/
def decodeTableWord (nbits w : Nat) : Option Instr :=
  match decode (tableRequest nbits w) with
  | .ok i => some i
  | .error _ => none

end Sys2Proof
end

