-- ==== Sys2Proof/Config.lean ====
section
/-! DEFINITION. The implementation parameters of spec/00_scope.md R7, their defaults and constraints, the constants the
source fixes, and the two free values (spec/93_implementation_defined.md U1, U2). -/

namespace Sys2Proof

/-- REG_COUNT (R7, source). -/
def regCount : Nat := 16
/-- WINDOW_SIZE (R7, source): each chip's mirrored window. -/
def windowSize : Nat := 1024
/-- OPEN_BUS (R7, source): the all-ones value of an unmapped read. -/
def openBus : Byte := 0xFF#8
/-- SYNC_BYTE (R7, source): the all-ones byte. -/
def syncByte : Byte := 0xFF#8
/-- SECTOR_STRIDE (R7, source): bytes of one sector span. -/
def sectorStride : Nat := 372

/-- The parameters of R7 that are a decision of the spec or OPEN. They are carried in `State` and no operation changes
them. -/
structure Config where
  /-- T_RELOAD_ADJ: cycles added to a continuous reload. -/
  tReloadAdj : Nat
  /-- NUM_DRIVES. -/
  numDrives : Nat
  /-- ADDR_W: the width of a drive address in bits. -/
  addrW : Nat
  /-- RAM_BASE, RAM_SIZE, PIC1_BASE, PIC2_BASE, ROM_BASE, ROM_SIZE: the drive address map. -/
  ramBase : Nat
  ramSize : Nat
  pic1Base : Nat
  pic2Base : Nat
  romBase : Nat
  romSize : Nat
  /-- PIC1 port B bit numbers of the bus pins. -/
  bDataIn : Nat
  bDataOut : Nat
  bClkIn : Nat
  bClkOut : Nat
  bAtnIn : Nat
  /-- DEVICE_ADDR_BITS, seen on PIC1 port B bits 6:5. -/
  deviceAddrBits : BitVec 2
  /-- M_STEP (its lower bit number), M_MOTOR, M_LED, M_WPS, M_SYNC: PIC2 port B bit numbers. -/
  mStep : Nat
  mMotor : Nat
  mLed : Nat
  mWps : Nat
  mSync : Nat
  /-- HT_RESET: the head position after reset, in half-tracks. -/
  htReset : Nat
  /-- MOTOR_GATES_ROTATION. -/
  motorGatesRotation : Bool
  /-- GCR_TABLE: the code of nibble k at position k. -/
  gcrTable : List (BitVec 5)
  headerMarker : Byte
  dataMarker : Byte
  headerPad : Byte
  gapByte : Byte
  syncLen : Nat
  headerGapLen : Nat
  tailGapLen : Nat
  /-- NUM_TRACKS. -/
  numTracks : Nat
  /-- SECTORS(t) at position t - 1. -/
  sectors : List Nat
  /-- ZONE(t) at position t - 1. -/
  zones : List Nat
  /-- BYTE_CYCLES(z) at position z. -/
  byteCycles : List Nat
  /-- TRACK_SIZE(z) at position z. -/
  trackSize : List Nat
  deriving DecidableEq, Repr

/-- Two address regions do not overlap (spec/20_memory.md R72). -/
abbrev disjointRegions (a n b m : Nat) : Prop := a + n ≤ b ∨ b + m ≤ a

/-- No three consecutive zero bits in a group code (spec/43_gcr_codec.md R231). -/
abbrev noThreeZeros (c : BitVec 5) : Prop :=
  ∀ i ∈ List.range 3, c.getLsbD i = true ∨ c.getLsbD (i + 1) = true ∨ c.getLsbD (i + 2) = true

/-- The constraints that R7, R72 and R231 state for the parameters, with one value in each table for every track and each
of the four zones; that there is a track is the range that R7 gives HT_RESET. A track may have no sectors. -/
structure ConfigOk (c : Config) : Prop where
  reloadAdj : c.tReloadAdj ≤ 2
  tracksPos : 0 < c.numTracks
  headReset : c.htReset ≤ 2 * (c.numTracks - 1)
  ramRom : disjointRegions c.ramBase c.ramSize c.romBase c.romSize
  ramPic1 : disjointRegions c.ramBase c.ramSize c.pic1Base windowSize
  ramPic2 : disjointRegions c.ramBase c.ramSize c.pic2Base windowSize
  pic1Pic2 : disjointRegions c.pic1Base windowSize c.pic2Base windowSize
  pic1Rom : disjointRegions c.pic1Base windowSize c.romBase c.romSize
  pic2Rom : disjointRegions c.pic2Base windowSize c.romBase c.romSize
  tableLength : c.gcrTable.length = 16
  tableNodup : c.gcrTable.Nodup
  tableRuns : ∀ e ∈ c.gcrTable, noThreeZeros e
  runLengths : 2 * c.syncLen + 10 + c.headerGapLen + 325 + c.tailGapLen = sectorStride
  syncRun : 2 ≤ c.syncLen
  sectorsLength : c.sectors.length = c.numTracks
  zonesLength : c.zones.length = c.numTracks
  zonesRange : ∀ z ∈ c.zones, z < 4
  cyclesLength : c.byteCycles.length = 4
  cyclesPos : ∀ n ∈ c.byteCycles, 0 < n
  cyclesOrder : c.byteCycles.Pairwise (· > ·)
  sizesLength : c.trackSize.length = 4
  sizesOrder : c.trackSize.Pairwise (· < ·)
  sizesHold : ∀ p ∈ c.sectors.zip c.zones, sectorStride * p.1 ≤ c.trackSize.getD p.2 0

/-- The parameters meet the stated constraints and four more that the model infers (DEDUCED, log 18): the map lies in the
drive's addresses (R70), pins of one port are different bits (R213, R290, R293), and every track has a byte (R48). -/
structure ConfigUsable (c : Config) : Prop extends ConfigOk c where
  mapFits : c.ramBase + c.ramSize ≤ 2 ^ c.addrW ∧ c.pic1Base + windowSize ≤ 2 ^ c.addrW ∧
    c.pic2Base + windowSize ≤ 2 ^ c.addrW ∧ c.romBase + c.romSize ≤ 2 ^ c.addrW
  busPins : [c.bDataIn, c.bDataOut, c.bClkIn, c.bClkOut, c.bAtnIn, 4, 5, 6].Nodup ∧
    ∀ b ∈ [c.bDataIn, c.bDataOut, c.bClkIn, c.bClkOut, c.bAtnIn], b < 8
  mechPins : [c.mStep, c.mStep + 1, c.mMotor, c.mLed, c.mWps, c.mSync].Nodup ∧
    ∀ b ∈ [c.mStep, c.mStep + 1, c.mMotor, c.mLed, c.mWps, c.mSync], b < 8
  sizesPos : ∀ z ∈ c.zones, 0 < c.trackSize.getD z 0

/-- The default parameters of R7. NUM_DRIVES is OPEN; 2 is the number the bus vectors use (log 4). -/
def Config.default : Config where
  tReloadAdj := 0
  numDrives := 2
  addrW := 16
  ramBase := 0x0000
  ramSize := 0x0800
  pic1Base := 0x1800
  pic2Base := 0x1C00
  romBase := 0xC000
  romSize := 0x4000
  bDataIn := 0
  bDataOut := 1
  bClkIn := 2
  bClkOut := 3
  bAtnIn := 7
  deviceAddrBits := 0
  mStep := 0
  mMotor := 2
  mLed := 3
  mWps := 4
  mSync := 7
  htReset := 34
  motorGatesRotation := true
  gcrTable := [0x0A, 0x0B, 0x12, 0x13, 0x0E, 0x0F, 0x16, 0x17, 0x09, 0x19, 0x1A, 0x1B, 0x0D, 0x1D, 0x1E, 0x15]
  headerMarker := 0x08
  dataMarker := 0x07
  headerPad := 0x0F
  gapByte := 0x55
  syncLen := 5
  headerGapLen := 9
  tailGapLen := 18
  numTracks := 35
  sectors := List.replicate 17 21 ++ List.replicate 7 19 ++ List.replicate 6 18 ++ List.replicate 5 17
  zones := List.replicate 17 3 ++ List.replicate 7 2 ++ List.replicate 6 1 ++ List.replicate 5 0
  byteCycles := [32, 30, 28, 26]
  trackSize := [6330, 6700, 7070, 7820]

/-- FREE VALUE (U1, log 5): what a byte of drive RAM that nothing has written since the last RESET reads as. The
arguments are the number of RESETs so far, the drive index and the offset in the RAM: each byte of each drive is any
value, independently, and keeps it until the next RESET. -/
opaque Config.powerOnByte : Nat → Nat → Nat → Byte

/-- FREE VALUE (U2, log 6): a byte of the firmware image that the state does not list. The arguments are the drive index
and the offset in the ROM. -/
opaque Config.firmwareByte : Nat → Nat → Byte

end Sys2Proof
end

