-- ==== Sys2Proof/Machine/Wiring.lean ====
section
/-! DEFINITION. Bit placement and the wiring of a drive's port B inputs (spec/42_serial_bus.md R213,
spec/45_drive_mechanics_map.md R293). -/

namespace Sys2Proof.Machine

/-- Bit `i` of `v` set to `b`; the other bits keep their values (spec/00_scope.md R8). -/
def setBit (v : Byte) (i : Nat) (b : Bool) : Byte :=
  if b then v ||| (1#8 <<< i) else v &&& ~~~(1#8 <<< i)

/-- The port B inputs of PIC1 (R213): bits 6:5 the device address, bit 4 and the two output pins 1, and the three cached
line inputs. -/
def pic1Inputs (cfg : Config) (atn clk data : Bool) : Byte :=
  let fixed : Byte := 0#1 ++ cfg.deviceAddrBits ++ 0b10000#5
  setBit (setBit (setBit (setBit (setBit fixed cfg.bClkOut true) cfg.bDataOut true) cfg.bAtnIn atn) cfg.bClkIn clk)
    cfg.bDataIn data

/-- The port B inputs of PIC2 (R293): M_SYNC is 0 in a sync run, M_WPS is 0 when write-protected, all others 1. -/
def pic2Inputs (cfg : Config) (inSync writeProtect : Bool) : Byte :=
  setBit (setBit 0xFF#8 cfg.mSync (!inSync)) cfg.mWps (!writeProtect)

end Sys2Proof.Machine
end

