-- ==== Sys2Proof/Machine/State.lean ====
section
/-! DEFINITION. The state of the block (spec/10_state.md), the reasons a step can stop, and the state after reset
(spec/10_state.md R61). -/

namespace Sys2Proof.Machine

/-- One PeripheralInterfaceChip (R20 to R33). -/
structure Pic where
  /-- Output registers (R21). -/
  ora : Byte
  orb : Byte
  /-- Direction registers, 1 = output (R22). -/
  ddra : Byte
  ddrb : Byte
  /-- Live pin levels (R23). -/
  ina : Byte
  inb : Byte
  /-- Input latches (R24). -/
  ila : Byte
  ilb : Byte
  /-- Timer 1 counter, latch and running flag (R25). -/
  t1c : Word16
  t1l : Word16
  t1Run : Bool
  /-- Timer 2 counter, latch and running flag (R26). -/
  t2c : Word16
  t2l : Word16
  t2Run : Bool
  /-- Shift register and its remaining-bit counter (R27). -/
  sr : Byte
  srCnt : Fin 9
  /-- Auxiliary and peripheral control registers (R28, R29). -/
  acr : Byte
  pcr : Byte
  /-- Interrupt flags and enables, bits 6:0 (R30, R31). -/
  ifr : Flags
  ier : Flags
  /-- Previous control-line levels (R32). -/
  ca1Prev : Bool
  ca2Prev : Bool
  cb1Prev : Bool
  cb2Prev : Bool
  /-- Timer 1 output flip-flop (R33). -/
  pb7Out : Bool
  deriving DecidableEq, Repr

/-- A track buffer (R48): its bytes, whose number is the track's size, and its cursor. -/
structure Track where
  buf : List Byte
  cursor : Nat
  deriving DecidableEq, Repr

/-- Byte storage: the bytes that hold a known value, by offset, offsets strictly rising. An offset that is not listed
holds no known value (R49, log 5, log 6). -/
abbrev Memory := List Host.Cell

/-- One drive (R20, R42, R45 to R49). -/
structure Drive where
  pic1 : Pic
  pic2 : Pic
  /-- Cached inverse of the bus lines, true = asserted (R42). -/
  atnIn : Bool
  clkIn : Bool
  dataIn : Bool
  /-- Head position in half-tracks, stepper phase, motor and LED (R45). -/
  ht : Nat
  phase : BitVec 2
  motor : Bool
  led : Bool
  /-- Rotation accumulator, sync mode and last byte consumed (R46). -/
  rotAcc : Nat
  inSync : Bool
  headByte : Byte
  /-- The inserted disk and the write-protect sense (R47). -/
  diskPresent : Bool
  diskId1 : Byte
  diskId2 : Byte
  writeProtect : Bool
  /-- The buffer of track `t` at position `t - 1`; empty while no disk is present (R48). -/
  tracks : List Track
  /-- RAM and ROM by offset from their bases (R49). -/
  ram : Memory
  rom : Memory
  deriving DecidableEq, Repr

/-- The bus arbiter's state (R41): the host's contributions, true = released, and the attached drives, a set held as a
strictly rising list. -/
structure Bus where
  hostAtn : Bool
  hostClk : Bool
  hostData : Bool
  attached : List Nat
  deriving DecidableEq, Repr

/-- Output events (R60). -/
inductive Event where
  /-- Drive `d`'s processor sets its overflow bit. -/
  | setOverflow (d : Nat)
  /-- An invalid group code was decoded. -/
  | gcrDiag
  /-- A track build was truncated. -/
  | trackOverflowDiag
  deriving DecidableEq, Repr

/-- What an operation returns (spec/30_encoding.md R103, column result). -/
inductive Result where
  | none
  /-- A register, memory or track byte. -/
  | byte (v : Byte)
  /-- A pin contribution or a sync test. -/
  | level (b : Bool)
  /-- The host's input (R207). -/
  | lines (clk data : Bool)
  /-- Coded bytes. -/
  | bytes (bs : List Byte)
  /-- Decoded group bytes and the error flag (R233). -/
  | group (bs : List Byte) (err : Bool)
  /-- A decoded header (R236). -/
  | header (track sector id1 id2 : Byte) (valid err : Bool)
  /-- A decoded data block (R238). -/
  | data (payload : List Byte) (valid err : Bool)
  deriving DecidableEq, Repr

/-- The whole block. -/
structure State where
  /-- The parameters of spec/00_scope.md R7; no operation changes them (log 4). -/
  cfg : Config
  /-- The standalone chip (R23, R61; log 3). -/
  chip : Pic
  bus : Bus
  /-- Drive `d` at position `d`. -/
  drives : List Drive
  /-- The output trace, oldest event first (R60). -/
  trace : List Event
  /-- The model's own field: what the last operation returned (log 7). -/
  result : Result
  /-- The model's own field: requests issued by the environment and not yet taken, oldest first (log 1). -/
  pending : List Request
  /-- The model's own field: the number of RESETs, on which the free power-on RAM contents depend (log 5). -/
  powerOns : Nat
  deriving DecidableEq, Repr

/-- The block raises no exception and no operation is fatal (spec/60_exceptions.md R320), so no step ends in a fault. -/
inductive Fault : Type where
  deriving DecidableEq, Repr

/-- Inputs outside the domain of an operation (spec/93_implementation_defined.md): the spec gives them no effect. Every
refusal is safe: the model stops where the spec defines nothing. -/
inductive Refusal where
  /-- Raised by `exec` for an operation without a meaning; no operation of this model is one. Safe. -/
  | notModelled (mnemonic : String)
  /-- Raised by `step` for a request that is no operation (U8, U10). Safe. -/
  | notAnOperation (e : DecodeError)
  /-- Raised by every operation that names a drive index which is not present (U8). Safe. -/
  | noSuchDrive
  /-- Raised by the track operations for a track number outside 1 .. NUM_TRACKS (U8, U9). Safe. -/
  | noSuchTrack
  /-- Raised by the track operations on a drive with no disk inserted (U8). Safe. -/
  | noDisk
  /-- Raised by TRK_UPDATE_SECTOR for a sector number not on the track (U9). Safe. -/
  | noSuchSector
  /-- Raised by MECH_WRITE with a value other than the output bits of PIC2's port B (U11). Safe. -/
  | mechPortValue
  /-- Raised by the codec operations for a byte string of the wrong length (U8). Safe. -/
  | operandLength
  /-- Raised by DRV_INSERT, TRK_BUILD and TRK_UPDATE_SECTOR for an image sector that is not 256 bytes (U14). Safe. -/
  | imageSector
  deriving DecidableEq, Repr

/-- A chip after reset, with the given pin levels (R61). -/
def Pic.reset (ina inb : Byte) : Pic where
  ora := 0x00
  orb := 0x00
  ddra := 0x00
  ddrb := 0x00
  ina := ina
  inb := inb
  ila := 0x00
  ilb := 0x00
  t1c := 0x0000
  t1l := 0x0000
  t1Run := false
  t2c := 0x0000
  t2l := 0x0000
  t2Run := false
  sr := 0x00
  srCnt := 0
  acr := 0x00
  pcr := 0x00
  ifr := 0
  ier := 0
  ca1Prev := false
  ca2Prev := false
  cb1Prev := false
  cb2Prev := false
  pb7Out := true

/-- A drive after reset, with its firmware image (R61). -/
def Drive.reset (cfg : Config) (rom : Memory) : Drive where
  pic1 := Pic.reset 0xFF (pic1Inputs cfg false false false)
  pic2 := Pic.reset 0x00 (pic2Inputs cfg false false)
  atnIn := false
  clkIn := false
  dataIn := false
  ht := cfg.htReset
  phase := 0
  motor := false
  led := false
  rotAcc := 0
  inSync := false
  headByte := 0x00
  diskPresent := false
  diskId1 := 0x00
  diskId2 := 0x00
  writeProtect := false
  tracks := []
  ram := []
  rom := rom

/-- The bus after reset (R61). -/
def Bus.reset : Bus where
  hostAtn := true
  hostClk := true
  hostData := true
  attached := []

/-- The block after its `powerOns`-th RESET, with parameters `cfg` and one drive for each firmware image (R61, R350). -/
def State.powerOn (cfg : Config) (roms : List Memory) (powerOns : Nat) (pending : List Request) : State where
  cfg := cfg
  chip := Pic.reset 0xFF 0xFF
  bus := Bus.reset
  drives := roms.map (Drive.reset cfg)
  trace := []
  result := .none
  pending := pending
  powerOns := powerOns

/-- The machine right after reset, with the default parameters (R61). No firmware byte is listed (log 6) and no request
is pending (log 1). -/
def State.reset : State :=
  State.powerOn Config.default (List.replicate Config.default.numDrives []) 0 []

end Sys2Proof.Machine
end

