-- ==== Sys2Proof/Machine/Flags.lean ====
section
/-! DEFINITION. The interrupt flags: their numbers, setting and clearing, the interrupt outputs and the edges that set
flags (spec/10_state.md R30, spec/40_pic_registers.md R132, spec/41_pic_timers_lines.md R180 to R190). -/

namespace Sys2Proof.Machine

/-- Flag numbers (R30). -/
abbrev flagCa2 : Nat := 0
abbrev flagCa1 : Nat := 1
abbrev flagSr : Nat := 2
abbrev flagCb2 : Nat := 3
abbrev flagCb1 : Nat := 4
abbrev flagT2 : Nat := 5
abbrev flagT1 : Nat := 6

/-- Flag `k` becomes pending (R323). -/
def Pic.setFlag (p : Pic) (k : Nat) : Pic := { p with ifr := p.ifr ||| (1#7 <<< k) }

/-- Flag `k` is cleared (R323). -/
def Pic.clearFlag (p : Pic) (k : Nat) : Pic := { p with ifr := p.ifr &&& ~~~(1#7 <<< k) }

/-- CA2_CTRL, bits 3:1 of the peripheral control register (R29). -/
def Pic.ca2Ctrl (p : Pic) : BitVec 3 := p.pcr.extractLsb' 1 3

/-- CB2_CTRL, bits 7:5 of the peripheral control register (R29). -/
def Pic.cb2Ctrl (p : Pic) : BitVec 3 := p.pcr.extractLsb' 5 3

/-- The two independent input modes, 001 and 011 (R29, R132). -/
def independentMode (ctrl : BitVec 3) : Bool := ctrl == 0b001#3 || ctrl == 0b011#3

/-- ClearA (R132). -/
def Pic.clearA (p : Pic) : Pic :=
  let q := p.clearFlag flagCa1
  if independentMode p.ca2Ctrl then q else q.clearFlag flagCa2

/-- ClearB (R132). -/
def Pic.clearB (p : Pic) : Pic :=
  let q := p.clearFlag flagCb1
  if independentMode p.cb2Ctrl then q else q.clearFlag flagCb2

/-- The chip's interrupt output (R190). -/
def Pic.irq (p : Pic) : Bool := (p.ifr &&& p.ier) != 0#7

/-- The drive's interrupt line (R304, R324). -/
def Drive.irq (x : Drive) : Bool := x.pic1.irq || x.pic2.irq

/-- The active edge of a control line: positive or negative, from the previous level to the level now (R11, R180). -/
def activeEdge (positive prev now : Bool) : Bool := if positive then !prev && now else prev && !now

end Sys2Proof.Machine
end

