-- ==== Sys2Proof/Machine/Geometry.lean ====
section
/-! DEFINITION. The disk geometry read from the parameters (spec/00_scope.md R7, spec/10_state.md R45,
spec/44_gcr_track_sync.md R270, R273). -/

namespace Sys2Proof.Machine

/-- `t` is a track of the geometry, 1 .. NUM_TRACKS. -/
abbrev trackInRange (cfg : Config) (t : Nat) : Prop := 1 ≤ t ∧ t ≤ cfg.numTracks

/-- SECTORS(t). -/
def sectorsOf (cfg : Config) (t : Nat) : Nat := cfg.sectors.getD (t - 1) 0

/-- ZONE(t). -/
def zoneOf (cfg : Config) (t : Nat) : Nat := cfg.zones.getD (t - 1) 0

/-- BYTE_CYCLES(ZONE(t)), the per-byte cost of track `t` (R270). -/
def costOf (cfg : Config) (t : Nat) : Nat := cfg.byteCycles.getD (zoneOf cfg t) 0

/-- TRACK_SIZE(ZONE(t)) (R48). -/
def trackSizeOf (cfg : Config) (t : Nat) : Nat := cfg.trackSize.getD (zoneOf cfg t) 0

/-- HT_MAX (R45). -/
def htMax (cfg : Config) : Nat := 2 * (cfg.numTracks - 1)

/-- The track under the head (R273). -/
def headTrack (x : Drive) : Nat := 1 + x.ht / 2

end Sys2Proof.Machine
end

