-- ==== Sys2Proof/Machine/Operands.lean ====
section
/-! DEFINITION. Operand forms: the register index, the two bytes of a timer, the target of a drive address and the
fields of the mechanics port (spec/20_memory.md R71, spec/30_encoding.md R104, R109). -/

namespace Sys2Proof.Machine

/-- A register index reduced modulo 16 (R71). -/
def regIndex (i : Nat) : Nat := i % regCount

/-- Bits 7:0 of a timer value (R109). -/
def lowByte (w : Word16) : Byte := w.extractLsb' 0 8

/-- Bits 15:8 of a timer value (R109). -/
def highByte (w : Word16) : Byte := w.extractLsb' 8 8

/-- `w` with its low byte replaced (R109). -/
def withLow (w : Word16) (v : Byte) : Word16 := highByte w ++ v

/-- `w` with its high byte replaced (R109). -/
def withHigh (w : Word16) (v : Byte) : Word16 := v ++ lowByte w

/-- What a drive address names (R104). -/
inductive Target where
  | ram (offset : Nat)
  | pic1 (r : Nat)
  | pic2 (r : Nat)
  | rom (offset : Nat)
  | unmapped
  deriving DecidableEq, Repr

/-- A drive address operand, reduced to its ADDR_W bits on entry (R104, spec/92_eei_decisions.md D1). -/
def addrOf (cfg : Config) (addr : Nat) : Nat := addr % 2 ^ cfg.addrW

/-- The region decode, in the order of R104; inside a chip window the register is the low four address bits. -/
def targetOf (cfg : Config) (addr : Nat) : Target :=
  let a := addrOf cfg addr
  if cfg.ramBase ≤ a ∧ a < cfg.ramBase + cfg.ramSize then .ram (a - cfg.ramBase)
  else if cfg.pic1Base ≤ a ∧ a < cfg.pic1Base + windowSize then .pic1 (a % regCount)
  else if cfg.pic2Base ≤ a ∧ a < cfg.pic2Base + windowSize then .pic2 (a % regCount)
  else if cfg.romBase ≤ a ∧ a < cfg.romBase + cfg.romSize then .rom (a - cfg.romBase)
  else .unmapped

/-- The stepper phase of a mechanics port value (R109, R290). -/
def portPhase (cfg : Config) (v : Byte) : BitVec 2 := v.extractLsb' cfg.mStep 2

/-- The motor bit of a mechanics port value (R290). -/
def portMotor (cfg : Config) (v : Byte) : Bool := v.getLsbD cfg.mMotor

/-- The LED bit of a mechanics port value (R290). -/
def portLed (cfg : Config) (v : Byte) : Bool := v.getLsbD cfg.mLed

end Sys2Proof.Machine
end

