-- ==== Sys2Proof/Machine/Ops.lean ====
section
/-! DEFINITION. The named operations over chips, drives and memory that the meanings share, and the fetch of the next
request. The block takes no exception and returns from none (spec/60_exceptions.md R320, R326, R327); its interrupt
outputs are in Flags.lean. -/

namespace Sys2Proof.Machine

/-! ### Memory -/

/-- The byte held at an offset; `none` where nothing is listed. -/
def Memory.read : Memory → Nat → Option Byte
  | [], _ => none
  | (a, v) :: m, i => if a = i then some v else Memory.read m i

/-- `v` stored at offset `i`, offsets kept strictly rising. -/
def Memory.write : Memory → Nat → Byte → Memory
  | [], i, v => [(i, v)]
  | (a, w) :: m, i, v =>
    if i < a then (i, v) :: (a, w) :: m
    else if i = a then (i, v) :: m
    else (a, w) :: Memory.write m i v

/-- The canonical form: offsets strictly rising. An unlisted offset holds no known value, so no entry can equal what an
unlisted offset reads as. -/
def Memory.wf : Memory → Bool
  | [] => true
  | [_] => true
  | (a, _) :: (b, w) :: m => decide (a < b) && Memory.wf ((b, w) :: m)

/-- Every listed offset lies below `size`. -/
def Memory.within (size : Nat) (m : Memory) : Bool := m.all fun c => decide (c.1 < size)

/-! ### Drives and chips -/

/-- Drive `d` replaced by its image under `f`; nothing changes where there is no drive `d`. -/
def State.updateDrive (s : State) (d : Nat) (f : Drive → Drive) : State :=
  { s with drives := s.drives.modify d f }

/-- The chip a class 00 or class 01 operation addresses (R102, R112). -/
def State.chipAt (s : State) : ChipRef → Option Pic
  | .standalone => some s.chip
  | .pic1 d => s.drives[d]?.map Drive.pic1
  | .pic2 d => s.drives[d]?.map Drive.pic2

/-- The addressed chip replaced. -/
def State.setChip (s : State) (c : ChipRef) (p : Pic) : State :=
  match c with
  | .standalone => { s with chip := p }
  | .pic1 d => s.updateDrive d fun x => { x with pic1 := p }
  | .pic2 d => s.updateDrive d fun x => { x with pic2 := p }

/-- The operation returns `r` (log 7). -/
def State.returning (s : State) (r : Result) : State := { s with result := r }

/-- `emit`: events appended to the output trace (spec/00_scope.md R10, R60). -/
def State.emit (s : State) (es : List Event) : State := { s with trace := s.trace ++ es }

/-- An operation on drive `d`; an index with no drive is refused (U8). -/
def onDrive (s : State) (d : Nat) (k : Drive → Host.Outcome State Fault Refusal) :
    Host.Outcome State Fault Refusal :=
  match s.drives[d]? with
  | none => .refused .noSuchDrive
  | some x => k x

/-- A register read: `f` gives the byte returned and the chip after the read's side effects (R130). -/
def readChip (c : ChipRef) (f : Pic → Byte × Pic) (s : State) : Host.Outcome State Fault Refusal :=
  match s.chipAt c with
  | none => .refused .noSuchDrive
  | some p => .next ((s.setChip c (f p).2).returning (.byte (f p).1))

/-- An operation that changes one chip and returns nothing. -/
def writeChip (c : ChipRef) (f : Pic → Pic) (s : State) : Host.Outcome State Fault Refusal :=
  match s.chipAt c with
  | none => .refused .noSuchDrive
  | some p => .next ((s.setChip c (f p)).returning .none)

/-! ### Fetch -/

/-- The next request and the state without it (log 1). -/
def fetch (s : State) : Option (Request × State) :=
  match s.pending with
  | [] => none
  | r :: rest => some (r, { s with pending := rest })

end Sys2Proof.Machine
end

