-- ==== Sys2Proof/Machine/Mechanics.lean ====
section
/-! DEFINITION. The mechanics port and the head position simulator (spec/45_drive_mechanics_map.md R290 to R292,
R303). -/

namespace Sys2Proof.Machine

/-- Step (R291): one half-track up for the next phase, one down for the phase before, clamped to 0 .. HT_MAX; the phase
is stored in every case. -/
def Drive.step (cfg : Config) (newPhase : BitVec 2) (x : Drive) : Drive :=
  let delta := newPhase - x.phase
  { x with
    ht := if delta = 1#2 then min (x.ht + 1) (htMax cfg) else if delta = 3#2 then x.ht - 1 else x.ht
    phase := newPhase }

/-- MECH_WRITE (R290): the step, then the motor and the LED; the other bits have no effect. -/
def Drive.mechWrite (cfg : Config) (v : Byte) (x : Drive) : Drive :=
  { x.step cfg (portPhase cfg v) with motor := portMotor cfg v, led := portLed cfg v }

/-- The value that port B of PIC2 presents to the mechanics (R303, D35): only output bits reach them. -/
abbrev Drive.mechPort (x : Drive) : Byte := x.pic2.orb &&& x.pic2.ddrb

/-- The hook from PIC2 to the mechanics (R303). -/
def Drive.portHook (cfg : Config) (x : Drive) : Drive := x.mechWrite cfg x.mechPort

/-- The hook of R303 after a write of port B or its direction register: it acts for PIC2 of a drive only. -/
def State.portHook (c : ChipRef) (s : State) : State :=
  match c with
  | .standalone => s
  | .pic1 _ => s
  | .pic2 d => s.updateDrive d (Drive.portHook s.cfg)

/-- A write of port B or its direction register: the chip changes, then the hook of R303 acts. -/
def writePortB (c : ChipRef) (f : Pic → Pic) (s : State) : Host.Outcome State Fault Refusal :=
  match s.chipAt c with
  | none => .refused .noSuchDrive
  | some p => .next ((State.portHook c (s.setChip c (f p))).returning .none)

/-- MECH_WRITE issued by the environment (R290): another value than the one that PIC2's port B presents is refused
(spec/93_implementation_defined.md U11); that value has the effect of R290 (log 9). -/
def execMechWrite (d : Nat) (v : Byte) (s : State) : Host.Outcome State Fault Refusal :=
  onDrive s d fun x =>
    if v = x.mechPort then .next ((s.updateDrive d (Drive.mechWrite s.cfg v)).returning .none)
    else .refused .mechPortValue

end Sys2Proof.Machine
end

