-- ==== Sys2Proof/Machine/Pins.lean ====
section
/-! DEFINITION. The class 01 operations of a chip: the tick, the control lines, the port inputs, the chip reset, and the
pin outputs (spec/41_pic_timers_lines.md, spec/70_reset_and_hazards.md R350). -/

namespace Sys2Proof.Machine

/-! ### Timers -/

/-- T1Underflow (R172). -/
def Pic.t1Underflow (cfg : Config) (p : Pic) : Pic :=
  let q := p.setFlag flagT1
  if p.acr.getLsbD 6 then
    { q with
      t1c := p.t1l - 1#16 + BitVec.ofNat 16 cfg.tReloadAdj
      pb7Out := if p.acr.getLsbD 7 then !p.pb7Out else p.pb7Out }
  else
    { q with
      t1Run := false
      t1c := 0xFFFF#16
      pb7Out := if p.acr.getLsbD 7 then true else p.pb7Out }

/-- T1Cycle (R171). -/
def Pic.t1Cycle (cfg : Config) (p : Pic) : Pic :=
  if p.t1Run then
    if p.t1c = 0#16 then p.t1Underflow cfg else { p with t1c := p.t1c - 1#16 }
  else p

/-- T2Cycle (R173). -/
def Pic.t2Cycle (p : Pic) : Pic :=
  if p.t2Run then
    if p.t2c = 0#16 then { p.setFlag flagT2 with t2Run := false, t2c := 0xFFFF#16 }
    else { p with t2c := p.t2c - 1#16 }
  else p

/-- One cycle: timer 1, then timer 2 (R170). -/
def Pic.cycle (cfg : Config) (p : Pic) : Pic := (p.t1Cycle cfg).t2Cycle

/-- TICK n on one chip: `n` single cycles (R170). -/
def Pic.ticks (cfg : Config) : Nat → Pic → Pic
  | 0, p => p
  | n + 1, p => Pic.ticks cfg n (p.cycle cfg)

/-! ### Control lines -/

/-- set_ca1 (R180): the flag and, with port A latching enabled, the input latch. -/
def Pic.setCa1 (level : Bool) (p : Pic) : Pic :=
  let q :=
    if activeEdge (p.pcr.getLsbD 0) p.ca1Prev level then
      { p.setFlag flagCa1 with ila := if p.acr.getLsbD 0 then p.ina else p.ila }
    else p
  { q with ca1Prev := level }

/-- set_ca2 (R181): no flag in the output modes. -/
def Pic.setCa2 (level : Bool) (p : Pic) : Pic :=
  let q :=
    if !p.pcr.getLsbD 3 && activeEdge (p.pcr.getLsbD 2) p.ca2Prev level then p.setFlag flagCa2 else p
  { q with ca2Prev := level }

/-- set_cb1 (R182): the flag and, with port B latching enabled, the input latch. -/
def Pic.setCb1 (level : Bool) (p : Pic) : Pic :=
  let q :=
    if activeEdge (p.pcr.getLsbD 4) p.cb1Prev level then
      { p.setFlag flagCb1 with ilb := if p.acr.getLsbD 1 then p.inb else p.ilb }
    else p
  { q with cb1Prev := level }

/-- set_cb2 (R183): no flag in the output modes. -/
def Pic.setCb2 (level : Bool) (p : Pic) : Pic :=
  let q :=
    if !p.pcr.getLsbD 7 && activeEdge (p.pcr.getLsbD 6) p.cb2Prev level then p.setFlag flagCb2 else p
  { q with cb2Prev := level }

/-! ### Port inputs and the chip reset -/

/-- set_port_a_in (R184). -/
def Pic.setPaIn (v : Byte) (p : Pic) : Pic := { p with ina := v }

/-- set_port_b_in (R185). -/
def Pic.setPbIn (v : Byte) (p : Pic) : Pic := { p with inb := v }

/-- RESET_PIC on one chip (R350): everything but the pin levels. -/
def Pic.resetPic (p : Pic) : Pic := Pic.reset p.ina p.inb

/-! ### Pin outputs (R34, R191) -/

/-- Which port A pins are driven, and at which level. -/
def Pic.paDrive (p : Pic) : Byte := p.ddra
def Pic.paLevel (p : Pic) : Byte := p.ora

/-- Which port B pins are driven: pin 7 also when timer 1 drives it. -/
def Pic.pbDrive (p : Pic) : Byte := p.ddrb ||| (p.acr &&& 0x80#8)

/-- The level of the driven port B pins: pin 7 carries the timer output when `acr[7]` = 1. -/
def Pic.pbLevel (p : Pic) : Byte :=
  if p.acr.getLsbD 7 then BitVec.ofBool p.pb7Out ++ p.orb.extractLsb' 0 7 else p.orb

/-! ### The operations -/

/-- TICK (R170). -/
def execTick (c : ChipRef) (n : Nat) (s : State) : Host.Outcome State Fault Refusal :=
  writeChip c (Pic.ticks s.cfg n) s

/-- SET_CA1 (R180; on a chip inside a drive log 10). -/
def execSetCa1 (c : ChipRef) (level : Bool) (s : State) : Host.Outcome State Fault Refusal :=
  writeChip c (Pic.setCa1 level) s

/-- SET_CA2 (R181; on a chip inside a drive log 10). -/
def execSetCa2 (c : ChipRef) (level : Bool) (s : State) : Host.Outcome State Fault Refusal :=
  writeChip c (Pic.setCa2 level) s

/-- SET_CB1 (R182; on a chip inside a drive log 10). -/
def execSetCb1 (c : ChipRef) (level : Bool) (s : State) : Host.Outcome State Fault Refusal :=
  writeChip c (Pic.setCb1 level) s

/-- SET_CB2 (R183; on a chip inside a drive log 10). -/
def execSetCb2 (c : ChipRef) (level : Bool) (s : State) : Host.Outcome State Fault Refusal :=
  writeChip c (Pic.setCb2 level) s

/-- SET_PA_IN (R184; log 10). -/
def execSetPaIn (c : ChipRef) (v : Byte) (s : State) : Host.Outcome State Fault Refusal :=
  writeChip c (Pic.setPaIn v) s

/-- SET_PB_IN (R185; log 10). -/
def execSetPbIn (c : ChipRef) (v : Byte) (s : State) : Host.Outcome State Fault Refusal :=
  writeChip c (Pic.setPbIn v) s

/-- RESET_PIC (R350): the chip, and for PIC2 of a drive the mechanics then see the port value 0x00, which is what the
hook of R303 presents once the direction register is 0. -/
def execResetPic (c : ChipRef) (s : State) : Host.Outcome State Fault Refusal :=
  writePortB c Pic.resetPic s

end Sys2Proof.Machine
end

