-- ==== Sys2Proof/Machine/Bus.lean ====
section
/-! DEFINITION. The SerialBus arbiter and the drive's pin contract (spec/42_serial_bus.md). -/

namespace Sys2Proof.Machine

/-- get_clk_out (R201): false (asserted) exactly when the pin is an output holding 1. -/
def Drive.clkOut (cfg : Config) (x : Drive) : Bool :=
  !(x.pic1.orb.getLsbD cfg.bClkOut && x.pic1.ddrb.getLsbD cfg.bClkOut)

/-- get_data_out (R201). -/
def Drive.dataOut (cfg : Config) (x : Drive) : Bool :=
  !(x.pic1.orb.getLsbD cfg.bDataOut && x.pic1.ddrb.getLsbD cfg.bDataOut)

/-- The three resolved lines, true = released (R202). -/
structure Lines where
  atn : Bool
  clk : Bool
  data : Bool
  deriving DecidableEq, Repr

/-- A contribution of every attached drive is released. -/
def State.allRelease (s : State) (out : Drive → Bool) : Bool :=
  s.bus.attached.all fun d => (s.drives[d]?.map out).getD true

/-- Resolve (R202): ATN is the host's alone; CLK and DATA are the AND of the host's and every attached drive's
contribution. -/
def State.resolve (s : State) : Lines where
  atn := s.bus.hostAtn
  clk := s.bus.hostClk && s.allRelease (Drive.clkOut s.cfg)
  data := s.bus.hostData && s.allRelease (Drive.dataOut s.cfg)

/-- set_atn_in (R204): the cached input, the port bit, then CA1 of PIC1. -/
def Drive.setAtnIn (cfg : Config) (line : Bool) (x : Drive) : Drive :=
  { x with
    atnIn := !line
    pic1 := { x.pic1 with inb := setBit x.pic1.inb cfg.bAtnIn (!line) }.setCa1 (!line) }

/-- set_clk_in (R205). -/
def Drive.setClkIn (cfg : Config) (line : Bool) (x : Drive) : Drive :=
  { x with clkIn := !line, pic1 := { x.pic1 with inb := setBit x.pic1.inb cfg.bClkIn (!line) } }

/-- set_data_in (R206). -/
def Drive.setDataIn (cfg : Config) (line : Bool) (x : Drive) : Drive :=
  { x with dataIn := !line, pic1 := { x.pic1 with inb := setBit x.pic1.inb cfg.bDataIn (!line) } }

/-- The resolved lines pushed into one drive: ATN, CLK, DATA (R203). -/
def Drive.pushLines (cfg : Config) (l : Lines) (x : Drive) : Drive :=
  ((x.setAtnIn cfg l.atn).setClkIn cfg l.clk).setDataIn cfg l.data

/-- The lines pushed into every attached drive in ascending order (R203). -/
def State.pushAll (s : State) (l : Lines) : State :=
  s.bus.attached.foldl (fun s d => s.updateDrive d (Drive.pushLines s.cfg l)) s

/-- A drive index added to a strictly rising list (R208). -/
def attachIndex (d : Nat) : List Nat → List Nat
  | [] => [d]
  | e :: l => if d < e then d :: e :: l else if d = e then e :: l else e :: attachIndex d l

/-! ### The operations -/

/-- HOST_SET (R200). -/
def execHostSet (atn clk data : Bool) (s : State) : Host.Outcome State Fault Refusal :=
  .next ({ s with bus := { s.bus with hostAtn := atn, hostClk := clk, hostData := data } }.returning .none)

/-- BUS_UPDATE (R203): the lines are resolved once, then pushed. -/
def execBusUpdate (s : State) : Host.Outcome State Fault Refusal :=
  .next ((s.pushAll s.resolve).returning .none)

/-- BUS_GET_HOST_INPUT (R207). -/
def execBusGetHostInput (s : State) : Host.Outcome State Fault Refusal :=
  .next (s.returning (.lines s.resolve.clk s.resolve.data))

/-- BUS_ATTACH (R208). -/
def execBusAttach (d : Nat) (s : State) : Host.Outcome State Fault Refusal :=
  onDrive s d fun _ =>
    .next ({ s with bus := { s.bus with attached := attachIndex d s.bus.attached } }.returning .none)

/-- BUS_DETACH (R209). -/
def execBusDetach (d : Nat) (s : State) : Host.Outcome State Fault Refusal :=
  onDrive s d fun _ =>
    .next ({ s with bus := { s.bus with attached := s.bus.attached.filter (· != d) } }.returning .none)

/-- DRV_GET_CLK_OUT (R201). -/
def execDrvGetClkOut (d : Nat) (s : State) : Host.Outcome State Fault Refusal :=
  onDrive s d fun x => .next (s.returning (.level (x.clkOut s.cfg)))

/-- DRV_GET_DATA_OUT (R201). -/
def execDrvGetDataOut (d : Nat) (s : State) : Host.Outcome State Fault Refusal :=
  onDrive s d fun x => .next (s.returning (.level (x.dataOut s.cfg)))

/-- DRV_SET_ATN_IN (R204). -/
def execDrvSetAtnIn (d : Nat) (line : Bool) (s : State) : Host.Outcome State Fault Refusal :=
  onDrive s d fun _ => .next ((s.updateDrive d (Drive.setAtnIn s.cfg line)).returning .none)

/-- DRV_SET_CLK_IN (R205). -/
def execDrvSetClkIn (d : Nat) (line : Bool) (s : State) : Host.Outcome State Fault Refusal :=
  onDrive s d fun _ => .next ((s.updateDrive d (Drive.setClkIn s.cfg line)).returning .none)

/-- DRV_SET_DATA_IN (R206). -/
def execDrvSetDataIn (d : Nat) (line : Bool) (s : State) : Host.Outcome State Fault Refusal :=
  onDrive s d fun _ => .next ((s.updateDrive d (Drive.setDataIn s.cfg line)).returning .none)

end Sys2Proof.Machine
end

