-- ==== Sys2Proof/Machine/PicRead.lean ====
section
/-! DEFINITION. The sixteen register reads of a chip (spec/40_pic_registers.md R130 to R148). -/

namespace Sys2Proof.Machine

/-- Port A read composition (R131). -/
def Pic.portA (p : Pic) : Byte :=
  (p.ora &&& p.ddra) ||| ((if p.acr.getLsbD 0 then p.ila else p.ina) &&& ~~~p.ddra)

/-- Port B read composition (R131). -/
def Pic.portB (p : Pic) : Byte :=
  (p.orb &&& p.ddrb) ||| ((if p.acr.getLsbD 1 then p.ilb else p.inb) &&& ~~~p.ddrb)

/-- R133: the port, then ClearB. -/
def Pic.rdOrb (p : Pic) : Byte × Pic := (p.portB, p.clearB)
/-- R134: the port, then ClearA. -/
def Pic.rdOra (p : Pic) : Byte × Pic := (p.portA, p.clearA)
/-- R135. -/
def Pic.rdDdrb (p : Pic) : Byte × Pic := (p.ddrb, p)
/-- R136. -/
def Pic.rdDdra (p : Pic) : Byte × Pic := (p.ddra, p)
/-- R137: the counter's low byte; F_T1 is cleared. -/
def Pic.rdT1cl (p : Pic) : Byte × Pic := (lowByte p.t1c, p.clearFlag flagT1)
/-- R138. -/
def Pic.rdT1ch (p : Pic) : Byte × Pic := (highByte p.t1c, p)
/-- R139. -/
def Pic.rdT1ll (p : Pic) : Byte × Pic := (lowByte p.t1l, p)
/-- R140. -/
def Pic.rdT1lh (p : Pic) : Byte × Pic := (highByte p.t1l, p)
/-- R141: the counter's low byte; F_T2 is cleared. -/
def Pic.rdT2cl (p : Pic) : Byte × Pic := (lowByte p.t2c, p.clearFlag flagT2)
/-- R142. -/
def Pic.rdT2ch (p : Pic) : Byte × Pic := (highByte p.t2c, p)
/-- R143: F_SR is cleared and the remaining-bit counter set to 8. -/
def Pic.rdSr (p : Pic) : Byte × Pic := (p.sr, { p.clearFlag flagSr with srCnt := 8 })
/-- R144. -/
def Pic.rdAcr (p : Pic) : Byte × Pic := (p.acr, p)
/-- R145. -/
def Pic.rdPcr (p : Pic) : Byte × Pic := (p.pcr, p)
/-- R146: bit 7 is the derived "any" bit. -/
def Pic.rdIfr (p : Pic) : Byte × Pic := (BitVec.ofBool p.irq ++ p.ifr, p)
/-- R147: bit 7 reads 1. -/
def Pic.rdIer (p : Pic) : Byte × Pic := (1#1 ++ p.ier, p)
/-- R148: port A without clearing flags. -/
def Pic.rdOranh (p : Pic) : Byte × Pic := (p.portA, p)

/-- RegRead (spec/00_scope.md R10): the register read by index, the index reduced modulo 16 (R130). -/
def Pic.regRead (index : Nat) (p : Pic) : Byte × Pic :=
  match regIndex index with
  | 0 => p.rdOrb
  | 1 => p.rdOra
  | 2 => p.rdDdrb
  | 3 => p.rdDdra
  | 4 => p.rdT1cl
  | 5 => p.rdT1ch
  | 6 => p.rdT1ll
  | 7 => p.rdT1lh
  | 8 => p.rdT2cl
  | 9 => p.rdT2ch
  | 10 => p.rdSr
  | 11 => p.rdAcr
  | 12 => p.rdPcr
  | 13 => p.rdIfr
  | 14 => p.rdIer
  | _ => p.rdOranh

/-- RD_ORB (R133). -/
def execRdOrb (c : ChipRef) (s : State) : Host.Outcome State Fault Refusal := readChip c Pic.rdOrb s
/-- RD_ORA (R134). -/
def execRdOra (c : ChipRef) (s : State) : Host.Outcome State Fault Refusal := readChip c Pic.rdOra s
/-- RD_DDRB (R135). -/
def execRdDdrb (c : ChipRef) (s : State) : Host.Outcome State Fault Refusal := readChip c Pic.rdDdrb s
/-- RD_DDRA (R136). -/
def execRdDdra (c : ChipRef) (s : State) : Host.Outcome State Fault Refusal := readChip c Pic.rdDdra s
/-- RD_T1CL (R137). -/
def execRdT1cl (c : ChipRef) (s : State) : Host.Outcome State Fault Refusal := readChip c Pic.rdT1cl s
/-- RD_T1CH (R138). -/
def execRdT1ch (c : ChipRef) (s : State) : Host.Outcome State Fault Refusal := readChip c Pic.rdT1ch s
/-- RD_T1LL (R139). -/
def execRdT1ll (c : ChipRef) (s : State) : Host.Outcome State Fault Refusal := readChip c Pic.rdT1ll s
/-- RD_T1LH (R140). -/
def execRdT1lh (c : ChipRef) (s : State) : Host.Outcome State Fault Refusal := readChip c Pic.rdT1lh s
/-- RD_T2CL (R141). -/
def execRdT2cl (c : ChipRef) (s : State) : Host.Outcome State Fault Refusal := readChip c Pic.rdT2cl s
/-- RD_T2CH (R142). -/
def execRdT2ch (c : ChipRef) (s : State) : Host.Outcome State Fault Refusal := readChip c Pic.rdT2ch s
/-- RD_SR (R143). -/
def execRdSr (c : ChipRef) (s : State) : Host.Outcome State Fault Refusal := readChip c Pic.rdSr s
/-- RD_ACR (R144). -/
def execRdAcr (c : ChipRef) (s : State) : Host.Outcome State Fault Refusal := readChip c Pic.rdAcr s
/-- RD_PCR (R145). -/
def execRdPcr (c : ChipRef) (s : State) : Host.Outcome State Fault Refusal := readChip c Pic.rdPcr s
/-- RD_IFR (R146). -/
def execRdIfr (c : ChipRef) (s : State) : Host.Outcome State Fault Refusal := readChip c Pic.rdIfr s
/-- RD_IER (R147). -/
def execRdIer (c : ChipRef) (s : State) : Host.Outcome State Fault Refusal := readChip c Pic.rdIer s
/-- RD_ORANH (R148). -/
def execRdOranh (c : ChipRef) (s : State) : Host.Outcome State Fault Refusal := readChip c Pic.rdOranh s

end Sys2Proof.Machine
end

