-- ==== Sys2Proof/Machine/PicWrite.lean ====
section
/-! DEFINITION. The sixteen register writes of a chip (spec/40_pic_registers.md R149 to R164). -/

namespace Sys2Proof.Machine

/-- R149: stored, then ClearB. -/
def Pic.wrOrb (v : Byte) (p : Pic) : Pic := { p with orb := v }.clearB
/-- R150: stored, then ClearA. -/
def Pic.wrOra (v : Byte) (p : Pic) : Pic := { p with ora := v }.clearA
/-- R151. -/
def Pic.wrDdrb (v : Byte) (p : Pic) : Pic := { p with ddrb := v }
/-- R152. -/
def Pic.wrDdra (v : Byte) (p : Pic) : Pic := { p with ddra := v }
/-- R153: the latch's low byte. -/
def Pic.wrT1cl (v : Byte) (p : Pic) : Pic := { p with t1l := withLow p.t1l v }
/-- R154: the latch's high byte, then the counter loaded, the timer started, F_T1 cleared, the output pulsed low. -/
def Pic.wrT1ch (v : Byte) (p : Pic) : Pic :=
  { p.clearFlag flagT1 with
    t1l := withHigh p.t1l v
    t1c := withHigh p.t1l v
    t1Run := true
    pb7Out := if p.acr.getLsbD 7 then false else p.pb7Out }
/-- R155: the latch's low byte. -/
def Pic.wrT1ll (v : Byte) (p : Pic) : Pic := { p with t1l := withLow p.t1l v }
/-- R156: the latch's high byte; a running counter is reloaded from the new latch; F_T1 cleared. -/
def Pic.wrT1lh (v : Byte) (p : Pic) : Pic :=
  { p.clearFlag flagT1 with
    t1l := withHigh p.t1l v
    t1c := if p.t1Run then withHigh p.t1l v else p.t1c }
/-- R157: the latch's low byte. -/
def Pic.wrT2cl (v : Byte) (p : Pic) : Pic := { p with t2l := withLow p.t2l v }
/-- R158: the latch's high byte, then the counter loaded, the timer started, F_T2 cleared. -/
def Pic.wrT2ch (v : Byte) (p : Pic) : Pic :=
  { p.clearFlag flagT2 with
    t2l := withHigh p.t2l v
    t2c := withHigh p.t2l v
    t2Run := true }
/-- R159: stored; F_SR cleared and the remaining-bit counter set to 8. -/
def Pic.wrSr (v : Byte) (p : Pic) : Pic := { p.clearFlag flagSr with sr := v, srCnt := 8 }
/-- R160. -/
def Pic.wrAcr (v : Byte) (p : Pic) : Pic := { p with acr := v }
/-- R161. -/
def Pic.wrPcr (v : Byte) (p : Pic) : Pic := { p with pcr := v }
/-- R162: write one to clear; bit 7 is ignored. -/
def Pic.wrIfr (v : Byte) (p : Pic) : Pic := { p with ifr := p.ifr &&& ~~~(v.extractLsb' 0 7) }
/-- R163: bit 7 sets or clears the enables selected by bits 6:0. -/
def Pic.wrIer (v : Byte) (p : Pic) : Pic :=
  { p with ier := if v.getLsbD 7 then p.ier ||| v.extractLsb' 0 7 else p.ier &&& ~~~(v.extractLsb' 0 7) }
/-- R164: stored without clearing flags. -/
def Pic.wrOranh (v : Byte) (p : Pic) : Pic := { p with ora := v }

/-- RegWrite (spec/00_scope.md R10): the register write by index, the index reduced modulo 16 (R130). The hook of R303 is
the drive's and is not part of it. -/
def Pic.regWrite (index : Nat) (v : Byte) (p : Pic) : Pic :=
  match regIndex index with
  | 0 => p.wrOrb v
  | 1 => p.wrOra v
  | 2 => p.wrDdrb v
  | 3 => p.wrDdra v
  | 4 => p.wrT1cl v
  | 5 => p.wrT1ch v
  | 6 => p.wrT1ll v
  | 7 => p.wrT1lh v
  | 8 => p.wrT2cl v
  | 9 => p.wrT2ch v
  | 10 => p.wrSr v
  | 11 => p.wrAcr v
  | 12 => p.wrPcr v
  | 13 => p.wrIfr v
  | 14 => p.wrIer v
  | _ => p.wrOranh v

/-- WR_ORB (R149, R303). -/
def execWrOrb (c : ChipRef) (v : Byte) (s : State) : Host.Outcome State Fault Refusal := writePortB c (Pic.wrOrb v) s
/-- WR_ORA (R150). -/
def execWrOra (c : ChipRef) (v : Byte) (s : State) : Host.Outcome State Fault Refusal := writeChip c (Pic.wrOra v) s
/-- WR_DDRB (R151, R303). -/
def execWrDdrb (c : ChipRef) (v : Byte) (s : State) : Host.Outcome State Fault Refusal := writePortB c (Pic.wrDdrb v) s
/-- WR_DDRA (R152). -/
def execWrDdra (c : ChipRef) (v : Byte) (s : State) : Host.Outcome State Fault Refusal := writeChip c (Pic.wrDdra v) s
/-- WR_T1CL (R153). -/
def execWrT1cl (c : ChipRef) (v : Byte) (s : State) : Host.Outcome State Fault Refusal := writeChip c (Pic.wrT1cl v) s
/-- WR_T1CH (R154). -/
def execWrT1ch (c : ChipRef) (v : Byte) (s : State) : Host.Outcome State Fault Refusal := writeChip c (Pic.wrT1ch v) s
/-- WR_T1LL (R155). -/
def execWrT1ll (c : ChipRef) (v : Byte) (s : State) : Host.Outcome State Fault Refusal := writeChip c (Pic.wrT1ll v) s
/-- WR_T1LH (R156). -/
def execWrT1lh (c : ChipRef) (v : Byte) (s : State) : Host.Outcome State Fault Refusal := writeChip c (Pic.wrT1lh v) s
/-- WR_T2CL (R157). -/
def execWrT2cl (c : ChipRef) (v : Byte) (s : State) : Host.Outcome State Fault Refusal := writeChip c (Pic.wrT2cl v) s
/-- WR_T2CH (R158). -/
def execWrT2ch (c : ChipRef) (v : Byte) (s : State) : Host.Outcome State Fault Refusal := writeChip c (Pic.wrT2ch v) s
/-- WR_SR (R159). -/
def execWrSr (c : ChipRef) (v : Byte) (s : State) : Host.Outcome State Fault Refusal := writeChip c (Pic.wrSr v) s
/-- WR_ACR (R160). -/
def execWrAcr (c : ChipRef) (v : Byte) (s : State) : Host.Outcome State Fault Refusal := writeChip c (Pic.wrAcr v) s
/-- WR_PCR (R161). -/
def execWrPcr (c : ChipRef) (v : Byte) (s : State) : Host.Outcome State Fault Refusal := writeChip c (Pic.wrPcr v) s
/-- WR_IFR (R162). -/
def execWrIfr (c : ChipRef) (v : Byte) (s : State) : Host.Outcome State Fault Refusal := writeChip c (Pic.wrIfr v) s
/-- WR_IER (R163). -/
def execWrIer (c : ChipRef) (v : Byte) (s : State) : Host.Outcome State Fault Refusal := writeChip c (Pic.wrIer v) s
/-- WR_ORANH (R164). -/
def execWrOranh (c : ChipRef) (v : Byte) (s : State) : Host.Outcome State Fault Refusal := writeChip c (Pic.wrOranh v) s

end Sys2Proof.Machine
end

