-- ==== Sys2Proof/Machine/Gcr.lean ====
section
/-! DEFINITION. The group codec and the frame decoder (spec/43_gcr_codec.md, spec/30_encoding.md R105 to R107). -/

namespace Sys2Proof.Machine

/-! ### Groups (R105, R231 to R233) -/

/-- The code of a nibble (R231). -/
def codeOf (table : List (BitVec 5)) (n : BitVec 4) : BitVec 5 := table.getD n.toNat 0

/-- The reverse table: the nibble of a code, `none` for an invalid code (R231). -/
def nibbleOf (table : List (BitVec 5)) (c : BitVec 5) : Option (BitVec 4) :=
  (table.findIdx? (· == c)).map (BitVec.ofNat 4)

/-- The 40-bit field of four bytes, high nibble first, the first code most significant (R105). -/
def groupField (table : List (BitVec 5)) (b0 b1 b2 b3 : Byte) : BitVec 40 :=
  let hi (b : Byte) : BitVec 5 := codeOf table (b.extractLsb' 4 4)
  let lo (b : Byte) : BitVec 5 := codeOf table (b.extractLsb' 0 4)
  hi b0 ++ lo b0 ++ hi b1 ++ lo b1 ++ hi b2 ++ lo b2 ++ hi b3 ++ lo b3

/-- GCR_ENC_GROUP (R232): five coded bytes. -/
def encGroup (table : List (BitVec 5)) (b0 b1 b2 b3 : Byte) : List Byte :=
  let field := groupField table b0 b1 b2 b3
  [field.extractLsb' 32 8, field.extractLsb' 24 8, field.extractLsb' 16 8, field.extractLsb' 8 8,
    field.extractLsb' 0 8]

/-- The nibble of the `k`-th code of a field, 0 for an invalid code (R233). -/
def fieldNibble (table : List (BitVec 5)) (field : BitVec 40) (k : Nat) : BitVec 4 :=
  (nibbleOf table (field.extractLsb' (35 - 5 * k) 5)).getD 0

/-- The `k`-th code of a field is not in the table (R233). -/
def fieldInvalid (table : List (BitVec 5)) (field : BitVec 40) (k : Nat) : Bool :=
  (nibbleOf table (field.extractLsb' (35 - 5 * k) 5)).isNone

/-- GCR_DEC_GROUP (R233): four bytes and the error flag. -/
def decGroup (table : List (BitVec 5)) (g0 g1 g2 g3 g4 : Byte) : List Byte × Bool :=
  let field : BitVec 40 := g0 ++ g1 ++ g2 ++ g3 ++ g4
  let byte (k : Nat) : Byte := fieldNibble table field (2 * k) ++ fieldNibble table field (2 * k + 1)
  ([byte 0, byte 1, byte 2, byte 3], (List.range 8).any (fieldInvalid table field))

/-- Enc (R230): consecutive groups of four bytes. -/
def encBytes (table : List (BitVec 5)) : List Byte → List Byte
  | b0 :: b1 :: b2 :: b3 :: rest => encGroup table b0 b1 b2 b3 ++ encBytes table rest
  | _ => []

/-- Dec (R230): consecutive groups of five bytes; the bytes and the number of groups with an invalid code. -/
def decBytes (table : List (BitVec 5)) : List Byte → List Byte × Nat
  | g0 :: g1 :: g2 :: g3 :: g4 :: rest =>
    let group := decGroup table g0 g1 g2 g3 g4
    let others := decBytes table rest
    (group.1 ++ others.1, group.2.toNat + others.2)
  | _ => ([], 0)

/-! ### Frames (R106, R107, R235 to R238) -/

/-- The XOR of a byte string (R107). -/
def xorBytes (bytes : List Byte) : Byte := bytes.foldr (· ^^^ ·) 0

/-- The header record (R106). -/
def headerRecord (cfg : Config) (track sector id1 id2 : Byte) : List Byte :=
  [cfg.headerMarker, track ^^^ sector ^^^ id1 ^^^ id2, sector, track, id2, id1, cfg.headerPad, cfg.headerPad]

/-- GCR_ENC_HEADER (R235). -/
def encHeader (cfg : Config) (track sector id1 id2 : Byte) : List Byte :=
  encBytes cfg.gcrTable (headerRecord cfg track sector id1 id2)

/-- The data record (R107). -/
def dataRecord (cfg : Config) (payload : List Byte) : List Byte :=
  cfg.dataMarker :: (payload ++ [xorBytes payload, 0, 0])

/-- GCR_ENC_DATA (R237). -/
def encData (cfg : Config) (payload : List Byte) : List Byte := encBytes cfg.gcrTable (dataRecord cfg payload)

/-- Byte `k` of a decoded record. -/
def recordByte (record : List Byte) (k : Nat) : Byte := record.getD k 0

/-- The result of GCR_DEC_HEADER (R236): the fields whatever the validity, validity by marker and checksum only, and the
error flag beside it. -/
def headerResult (cfg : Config) (record : List Byte) (err : Bool) : Result :=
  let r := recordByte record
  .header (r 3) (r 2) (r 5) (r 4) (r 0 == cfg.headerMarker && r 1 == r 2 ^^^ r 3 ^^^ r 4 ^^^ r 5) err

/-- The result of GCR_DEC_DATA (R238). -/
def dataResult (cfg : Config) (record : List Byte) (err : Bool) : Result :=
  let payload := (record.drop 1).take 256
  .data payload (recordByte record 0 == cfg.dataMarker && recordByte record 257 == xorBytes payload) err

/-- One GcrDiag for every group with an invalid code (R230, R233; log 12). -/
def diagEvents (n : Nat) : List Event := List.replicate n .gcrDiag

/-! ### The operations -/

/-- GCR_ENC_GROUP (R232). -/
def execGcrEncGroup (b0 b1 b2 b3 : Byte) (s : State) : Host.Outcome State Fault Refusal :=
  .next (s.returning (.bytes (encGroup s.cfg.gcrTable b0 b1 b2 b3)))

/-- GCR_DEC_GROUP (R233). -/
def execGcrDecGroup (g0 g1 g2 g3 g4 : Byte) (s : State) : Host.Outcome State Fault Refusal :=
  let group := decGroup s.cfg.gcrTable g0 g1 g2 g3 g4
  .next ((s.emit (diagEvents group.2.toNat)).returning (.group group.1 group.2))

/-- GCR_ENC_HEADER (R235). -/
def execGcrEncHeader (track sector id1 id2 : Byte) (s : State) : Host.Outcome State Fault Refusal :=
  .next (s.returning (.bytes (encHeader s.cfg track sector id1 id2)))

/-- GCR_DEC_HEADER (R236); a frame is 10 bytes (U8). -/
def execGcrDecHeader (frame : List Byte) (s : State) : Host.Outcome State Fault Refusal :=
  if frame.length = 10 then
    let decoded := decBytes s.cfg.gcrTable frame
    .next ((s.emit (diagEvents decoded.2)).returning (headerResult s.cfg decoded.1 (decoded.2 != 0)))
  else .refused .operandLength

/-- GCR_ENC_DATA (R237); a payload is 256 bytes (U8). -/
def execGcrEncData (payload : List Byte) (s : State) : Host.Outcome State Fault Refusal :=
  if payload.length = 256 then .next (s.returning (.bytes (encData s.cfg payload)))
  else .refused .operandLength

/-- GCR_DEC_DATA (R238); a frame is 325 bytes (U8). -/
def execGcrDecData (frame : List Byte) (s : State) : Host.Outcome State Fault Refusal :=
  if frame.length = 325 then
    let decoded := decBytes s.cfg.gcrTable frame
    .next ((s.emit (diagEvents decoded.2)).returning (dataResult s.cfg decoded.1 (decoded.2 != 0)))
  else .refused .operandLength

end Sys2Proof.Machine
end

