-- ==== Sys2Proof/Machine/Track.lean ====
section
/-! DEFINITION. The track buffers (spec/44_gcr_track_sync.md R260 to R267). -/

namespace Sys2Proof.Machine

/-- The size of a track buffer is the number of its bytes (R48, R260; log 15). -/
def Track.size (t : Track) : Nat := t.buf.length

/-- The byte at the cursor, which lies inside the buffer (R48); the 0 outside it is of no run (log 16). -/
def Track.here (t : Track) : Byte := t.buf.getD t.cursor 0

/-- The cursor moved on by one, modulo the size (R261). -/
def Track.advance (t : Track) : Track := { t with cursor := (t.cursor + 1) % t.size }

/-- read_byte (R261). -/
def Track.readByte (t : Track) : Byte × Track := (t.here, t.advance)

/-- write_byte (R262). -/
def Track.writeByte (v : Byte) (t : Track) : Track := ({ t with buf := t.buf.set t.cursor v } : Track).advance

/-- is_sync (R263). -/
def Track.isSync (t : Track) : Bool := t.here == syncByte

/-- The 256 bytes of a sector of an image (R265; log 13). -/
def Image.bytesAt (image : Image) (t s : Nat) : List Byte :=
  match image.find? fun e => e.track == t && e.sector == s with
  | some e => e.bytes
  | none => List.replicate 256 0

/-- SectorSpan (R267, R108): the 372 bytes of one sector. -/
def sectorSpan (cfg : Config) (t s : Nat) (image : Image) (id1 id2 : Byte) : List Byte :=
  List.replicate cfg.syncLen syncByte ++ encHeader cfg (byteOf t) (byteOf s) id1 id2 ++
    List.replicate cfg.headerGapLen cfg.gapByte ++ List.replicate cfg.syncLen syncByte ++
    encData cfg (Image.bytesAt image t s) ++ List.replicate cfg.tailGapLen cfg.gapByte

/-- The spans of all sectors of a track, in ascending order (R264). -/
def trackSpans (cfg : Config) (t : Nat) (image : Image) (id1 id2 : Byte) : List Byte :=
  (List.range (sectorsOf cfg t)).flatMap fun s => sectorSpan cfg t s image id1 id2

/-- build_from_disk_image (R264): padded with gap bytes or truncated to the track's size, the cursor at 0. -/
def buildTrack (cfg : Config) (t : Nat) (image : Image) (id1 id2 : Byte) : Track :=
  let out := trackSpans cfg t image id1 id2
  { buf := (out ++ List.replicate (trackSizeOf cfg t - out.length) cfg.gapByte).take (trackSizeOf cfg t)
    cursor := 0 }

/-- The event of a truncated build (R264). -/
def buildEvents (cfg : Config) (t : Nat) (image : Image) (id1 id2 : Byte) : List Event :=
  if trackSizeOf cfg t < (trackSpans cfg t image id1 id2).length then [.trackOverflowDiag] else []

/-- update_sector_from_disk_image (R266): the sector's span rewritten in place. The buffer keeps its size (R62). -/
def Track.updateSector (cfg : Config) (t sector : Nat) (image : Image) (id1 id2 : Byte) (buffer : Track) : Track :=
  let off := sector * sectorStride
  let span := sectorSpan cfg t sector image id1 id2
  { buffer with
    buf := (buffer.buf.take off ++ span ++ buffer.buf.drop (off + span.length)).take buffer.size }

/-- The buffer of track `t` of a drive (R48). -/
def Drive.track? (x : Drive) (t : Nat) : Option Track := x.tracks[t - 1]?

/-- The buffer of track `t` replaced. -/
def Drive.setTrack (x : Drive) (t : Nat) (buffer : Track) : Drive := { x with tracks := x.tracks.set (t - 1) buffer }

/-- An operation on the buffer of track `t` of drive `d`; the drive, the track number and the disk must exist (U8). -/
def onTrack (s : State) (d t : Nat) (k : Track → Host.Outcome State Fault Refusal) :
    Host.Outcome State Fault Refusal :=
  onDrive s d fun x =>
    if trackInRange s.cfg t then
      if x.diskPresent then
        match x.track? t with
        | none => .refused .noDisk
        | some buffer => k buffer
      else .refused .noDisk
    else .refused .noSuchTrack

/-- The buffer of track `t` of drive `d` replaced in the block. -/
def State.setTrack (s : State) (d t : Nat) (buffer : Track) : State :=
  s.updateDrive d fun x => x.setTrack t buffer

/-! ### The operations -/

/-- TRK_READ_BYTE (R261). -/
def execTrkReadByte (d t : Nat) (s : State) : Host.Outcome State Fault Refusal :=
  onTrack s d t fun b => .next ((s.setTrack d t b.readByte.2).returning (.byte b.readByte.1))

/-- TRK_WRITE_BYTE (R262). -/
def execTrkWriteByte (d t : Nat) (v : Byte) (s : State) : Host.Outcome State Fault Refusal :=
  onTrack s d t fun b => .next ((s.setTrack d t (b.writeByte v)).returning .none)

/-- TRK_IS_SYNC (R263). -/
def execTrkIsSync (d t : Nat) (s : State) : Host.Outcome State Fault Refusal :=
  onTrack s d t fun b => .next (s.returning (.level b.isSync))

/-- TRK_BUILD (R264; log 11). -/
def execTrkBuild (d t : Nat) (image : Image) (id1 id2 : Byte) (s : State) : Host.Outcome State Fault Refusal :=
  onTrack s d t fun _ =>
    if Image.wellFormed image then
      .next (((s.setTrack d t (buildTrack s.cfg t image id1 id2)).emit
        (buildEvents s.cfg t image id1 id2)).returning .none)
    else .refused .imageSector

/-- TRK_UPDATE_SECTOR (R266); the sector must be one of the track (U9). -/
def execTrkUpdateSector (d t : Nat) (image : Image) (sector : Nat) (id1 id2 : Byte) (s : State) :
    Host.Outcome State Fault Refusal :=
  onTrack s d t fun b =>
    if sector < sectorsOf s.cfg t then
      if Image.wellFormed image then
        .next ((s.setTrack d t (b.updateSector s.cfg t sector image id1 id2)).returning .none)
      else .refused .imageSector
    else .refused .noSuchSector

end Sys2Proof.Machine
end

