-- ==== Sys2Proof/Machine/Rotation.lean ====
section
/-! DEFINITION. Rotation, the sync detector, the byte-ready signal and the drive tick (spec/44_gcr_track_sync.md R270 to
R273, spec/45_drive_mechanics_map.md R302). -/

namespace Sys2Proof.Machine

/-- The control-line half of Signal (R272): CA1 of PIC2 low, then high. The event half is `setOverflow`. -/
def Drive.signal (x : Drive) : Drive := { x with pic2 := (x.pic2.setCa1 false).setCa1 true }

/-- PIC2's sync status bit follows the sync mode (R271, R293). -/
def Drive.showSync (cfg : Config) (x : Drive) : Drive :=
  { x with pic2 := { x.pic2 with inb := setBit x.pic2.inb cfg.mSync (!x.inSync) } }

/-- The byte under the head is shown on port A of PIC2 (R271, R294). -/
def Drive.showByte (b : Byte) (x : Drive) : Drive :=
  { x with headByte := b, pic2 := { x.pic2 with ina := b } }

/-- The sync detector's decision for a consumed byte `b` whose successor is a sync byte iff `ahead` (R271): the drive
after it, and whether the byte is signalled. -/
def Drive.detect (b : Byte) (ahead : Bool) (x : Drive) : Drive × Bool :=
  if b = syncByte then
    if x.inSync then (x, false)
    else if ahead then ({ x with inSync := true }, false)
    else (x.signal, true)
  else (({ x with inSync := false } : Drive).signal, true)

/-- ConsumeByte (R271) on track `t`: the drive after it, and whether a byte-ready signal was given. -/
def Drive.consumeByte (cfg : Config) (t : Nat) (x : Drive) : Drive × Bool :=
  match x.track? t with
  | none => (x, false)
  | some buffer =>
    let b := buffer.readByte.1
    let after := buffer.readByte.2
    let decided := ((x.setTrack t after).showByte b).detect b after.isSync
    (decided.1.showSync cfg, decided.2)

/-- The loop of Rotate (R270): while the accumulator reaches the cost, a byte is consumed. `fuel` bounds the number of
bytes; the second component counts the signals. -/
def Drive.rotateLoop (cfg : Config) (t cost : Nat) : Nat → Drive → Drive × Nat
  | 0, x => (x, 0)
  | fuel + 1, x =>
    if cost ≤ x.rotAcc then
      let consumed := ({ x with rotAcc := x.rotAcc - cost } : Drive).consumeByte cfg t
      let rest := Drive.rotateLoop cfg t cost fuel consumed.1
      (rest.1, consumed.2.toNat + rest.2)
    else (x, 0)

/-- The disk turns: a disk is in and the motor runs, unless the motor does not gate rotation (R270, R292). -/
def Drive.rotates (cfg : Config) (x : Drive) : Bool :=
  x.diskPresent && (!cfg.motorGatesRotation || x.motor)

/-- Rotate (R270). No cycle consumes nothing, also where the accumulator, kept across a step into a cheaper zone (R368),
has reached the new cost: R270's corner case, R302 and U16 say so. The accumulated cycles bound the bytes consumed, since every cost is at
least one cycle (R7; log 16). -/
def Drive.rotate (cfg : Config) (n : Nat) (x : Drive) : Drive × Nat :=
  if n = 0 then (x, 0)
  else if x.rotates cfg then
    Drive.rotateLoop cfg (headTrack x) (costOf cfg (headTrack x)) (x.rotAcc + n) { x with rotAcc := x.rotAcc + n }
  else (x, 0)

/-- DRV_TICK on one drive (R302): the cycles of PIC1, the cycles of PIC2, the rotation. -/
def Drive.ticks (cfg : Config) (n : Nat) (x : Drive) : Drive × Nat :=
  ({ x with pic1 := x.pic1.ticks cfg n, pic2 := x.pic2.ticks cfg n } : Drive).rotate cfg n

/-- The events of `k` byte-ready signals of drive `d` (R272). -/
def overflowEvents (d k : Nat) : List Event := List.replicate k (.setOverflow d)

/-- DRV_TICK in the block: the drive ticked and its events emitted. Nothing changes where there is no drive `d`. -/
def State.tickDrive (n : Nat) (s : State) (d : Nat) : State :=
  match s.drives[d]? with
  | none => s
  | some x =>
    (s.updateDrive d fun _ => (x.ticks s.cfg n).1).emit (overflowEvents d (x.ticks s.cfg n).2)

/-- DRV_TICK (R302). -/
def execDrvTick (d n : Nat) (s : State) : Host.Outcome State Fault Refusal :=
  onDrive s d fun _ => .next ((s.tickDrive n d).returning .none)

/-- BUS_TICK (R210): DRV_TICK on every attached drive in ascending order. -/
def execBusTick (n : Nat) (s : State) : Host.Outcome State Fault Refusal :=
  .next ((s.bus.attached.foldl (State.tickDrive n) s).returning .none)

end Sys2Proof.Machine
end

