-- ==== Sys2Proof/Machine/DriveMap.lean ====
section
/-! DEFINITION. The drive address map, disk handling and the block reset (spec/45_drive_mechanics_map.md R295, R296, R300,
R301, spec/70_reset_and_hazards.md R350). -/

namespace Sys2Proof.Machine

/-! ### The address map -/

/-- A byte of drive `d`'s RAM: the byte written there since the last RESET, or else the free power-on byte (R49, U1;
log 5). -/
def Drive.ramByte (powerOns d offset : Nat) (x : Drive) : Byte :=
  match Memory.read x.ram offset with
  | some v => v
  | none => Config.powerOnByte powerOns d offset

/-- A byte of drive `d`'s ROM: the listed byte of the firmware image, or else a free byte (R80, U2; log 6). -/
def Drive.romByte (d offset : Nat) (x : Drive) : Byte :=
  match Memory.read x.rom offset with
  | some v => v
  | none => Config.firmwareByte d offset

/-- MemRead (R300): the byte, and the drive after the side effects of a register read. -/
def Drive.memRead (cfg : Config) (powerOns d addr : Nat) (x : Drive) : Byte × Drive :=
  match targetOf cfg addr with
  | .ram offset => (x.ramByte powerOns d offset, x)
  | .pic1 r => ((x.pic1.regRead r).1, { x with pic1 := (x.pic1.regRead r).2 })
  | .pic2 r => ((x.pic2.regRead r).1, { x with pic2 := (x.pic2.regRead r).2 })
  | .rom offset => (x.romByte d offset, x)
  | .unmapped => (openBus, x)

/-- MemWrite (R301): with the hook of R303 after a write of PIC2's register 0 or 2; dropped in ROM and where nothing is
mapped. -/
def Drive.memWrite (cfg : Config) (addr : Nat) (v : Byte) (x : Drive) : Drive :=
  match targetOf cfg addr with
  | .ram offset => { x with ram := Memory.write x.ram offset v }
  | .pic1 r => { x with pic1 := x.pic1.regWrite r v }
  | .pic2 r =>
    let written : Drive := { x with pic2 := x.pic2.regWrite r v }
    if regIndex r = 0 ∨ regIndex r = 2 then written.portHook cfg else written
  | .rom _ => x
  | .unmapped => x

/-- DRV_MEMRD (R300). -/
def execDrvMemrd (d addr : Nat) (s : State) : Host.Outcome State Fault Refusal :=
  onDrive s d fun x =>
    .next ((s.updateDrive d fun _ => (x.memRead s.cfg s.powerOns d addr).2).returning
      (.byte (x.memRead s.cfg s.powerOns d addr).1))

/-- DRV_MEMWR (R301). -/
def execDrvMemwr (d addr : Nat) (v : Byte) (s : State) : Host.Outcome State Fault Refusal :=
  onDrive s d fun _ => .next ((s.updateDrive d (Drive.memWrite s.cfg addr v)).returning .none)

/-! ### Disk handling -/

/-- DRV_EJECT on one drive (R295). -/
def Drive.eject (cfg : Config) (x : Drive) : Drive :=
  { x with
    diskPresent := false
    tracks := []
    inSync := false
    pic2 := { x.pic2 with inb := setBit x.pic2.inb cfg.mSync true }
    rotAcc := 0 }

/-- DRV_INSERT on one drive (R295): an eject first where a disk is in, then the identifier and every track built. -/
def Drive.insert (cfg : Config) (image : Image) (id1 id2 : Byte) (x : Drive) : Drive :=
  { (if x.diskPresent then x.eject cfg else x) with
    diskId1 := id1
    diskId2 := id2
    tracks := (List.range cfg.numTracks).map fun k => buildTrack cfg (k + 1) image id1 id2
    diskPresent := true }

/-- The events of building every track (R264, R295). -/
def insertEvents (cfg : Config) (image : Image) (id1 id2 : Byte) : List Event :=
  (List.range cfg.numTracks).flatMap fun k => buildEvents cfg (k + 1) image id1 id2

/-- DRV_INSERT (R295); the image must be total (U14). -/
def execDrvInsert (d : Nat) (image : Image) (id1 id2 : Byte) (s : State) : Host.Outcome State Fault Refusal :=
  onDrive s d fun _ =>
    if Image.wellFormed image then
      .next (((s.updateDrive d (Drive.insert s.cfg image id1 id2)).emit
        (insertEvents s.cfg image id1 id2)).returning .none)
    else .refused .imageSector

/-- DRV_EJECT (R295). -/
def execDrvEject (d : Nat) (s : State) : Host.Outcome State Fault Refusal :=
  onDrive s d fun _ => .next ((s.updateDrive d (Drive.eject s.cfg)).returning .none)

/-- The write-protect sense and its status bit (R296). -/
def Drive.setWp (cfg : Config) (b : Bool) (x : Drive) : Drive :=
  { x with writeProtect := b, pic2 := { x.pic2 with inb := setBit x.pic2.inb cfg.mWps (!b) } }

/-- DRV_SET_WP (R296). -/
def execDrvSetWp (d : Nat) (b : Bool) (s : State) : Host.Outcome State Fault Refusal :=
  onDrive s d fun _ => .next ((s.updateDrive d (Drive.setWp s.cfg b)).returning .none)

/-! ### The block reset -/

/-- RESET (R350, R61): every drive keeps its firmware image, the parameters stay, the RAM contents become free again
(U1), and the requests not yet taken stay with the environment (log 5, log 1). -/
def execReset (s : State) : Host.Outcome State Fault Refusal :=
  .next (State.powerOn s.cfg (s.drives.map Drive.rom) (s.powerOns + 1) s.pending)

end Sys2Proof.Machine
end

