-- ==== Sys2Proof/Machine/Dispatch.lean ====
section
/-! DEFINITION. The dispatch: one arm per constructor of Instr, each a direct call of its meaning. -/

namespace Sys2Proof.Machine

/-- The effect of one operation (spec/30_encoding.md R103). -/
def exec (i : Instr) (s : State) : Host.Outcome State Fault Refusal :=
  match i with
  | .rdOrb c => Sys2Proof.Machine.execRdOrb c s
  | .rdOra c => Sys2Proof.Machine.execRdOra c s
  | .rdDdrb c => Sys2Proof.Machine.execRdDdrb c s
  | .rdDdra c => Sys2Proof.Machine.execRdDdra c s
  | .rdT1cl c => Sys2Proof.Machine.execRdT1cl c s
  | .rdT1ch c => Sys2Proof.Machine.execRdT1ch c s
  | .rdT1ll c => Sys2Proof.Machine.execRdT1ll c s
  | .rdT1lh c => Sys2Proof.Machine.execRdT1lh c s
  | .rdT2cl c => Sys2Proof.Machine.execRdT2cl c s
  | .rdT2ch c => Sys2Proof.Machine.execRdT2ch c s
  | .rdSr c => Sys2Proof.Machine.execRdSr c s
  | .rdAcr c => Sys2Proof.Machine.execRdAcr c s
  | .rdPcr c => Sys2Proof.Machine.execRdPcr c s
  | .rdIfr c => Sys2Proof.Machine.execRdIfr c s
  | .rdIer c => Sys2Proof.Machine.execRdIer c s
  | .rdOranh c => Sys2Proof.Machine.execRdOranh c s
  | .wrOrb c v => Sys2Proof.Machine.execWrOrb c v s
  | .wrOra c v => Sys2Proof.Machine.execWrOra c v s
  | .wrDdrb c v => Sys2Proof.Machine.execWrDdrb c v s
  | .wrDdra c v => Sys2Proof.Machine.execWrDdra c v s
  | .wrT1cl c v => Sys2Proof.Machine.execWrT1cl c v s
  | .wrT1ch c v => Sys2Proof.Machine.execWrT1ch c v s
  | .wrT1ll c v => Sys2Proof.Machine.execWrT1ll c v s
  | .wrT1lh c v => Sys2Proof.Machine.execWrT1lh c v s
  | .wrT2cl c v => Sys2Proof.Machine.execWrT2cl c v s
  | .wrT2ch c v => Sys2Proof.Machine.execWrT2ch c v s
  | .wrSr c v => Sys2Proof.Machine.execWrSr c v s
  | .wrAcr c v => Sys2Proof.Machine.execWrAcr c v s
  | .wrPcr c v => Sys2Proof.Machine.execWrPcr c v s
  | .wrIfr c v => Sys2Proof.Machine.execWrIfr c v s
  | .wrIer c v => Sys2Proof.Machine.execWrIer c v s
  | .wrOranh c v => Sys2Proof.Machine.execWrOranh c v s
  | .setCa1 c level => Sys2Proof.Machine.execSetCa1 c level s
  | .setCa2 c level => Sys2Proof.Machine.execSetCa2 c level s
  | .setCb1 c level => Sys2Proof.Machine.execSetCb1 c level s
  | .setCb2 c level => Sys2Proof.Machine.execSetCb2 c level s
  | .setPaIn c v => Sys2Proof.Machine.execSetPaIn c v s
  | .setPbIn c v => Sys2Proof.Machine.execSetPbIn c v s
  | .tick c n => Sys2Proof.Machine.execTick c n s
  | .resetPic c => Sys2Proof.Machine.execResetPic c s
  | .hostSet atn clk data => Sys2Proof.Machine.execHostSet atn clk data s
  | .busUpdate => Sys2Proof.Machine.execBusUpdate s
  | .busGetHostInput => Sys2Proof.Machine.execBusGetHostInput s
  | .busTick n => Sys2Proof.Machine.execBusTick n s
  | .busAttach d => Sys2Proof.Machine.execBusAttach d s
  | .busDetach d => Sys2Proof.Machine.execBusDetach d s
  | .drvGetClkOut d => Sys2Proof.Machine.execDrvGetClkOut d s
  | .drvGetDataOut d => Sys2Proof.Machine.execDrvGetDataOut d s
  | .drvSetAtnIn d line => Sys2Proof.Machine.execDrvSetAtnIn d line s
  | .drvSetClkIn d line => Sys2Proof.Machine.execDrvSetClkIn d line s
  | .drvSetDataIn d line => Sys2Proof.Machine.execDrvSetDataIn d line s
  | .drvTick d n => Sys2Proof.Machine.execDrvTick d n s
  | .drvMemrd d addr => Sys2Proof.Machine.execDrvMemrd d addr s
  | .drvMemwr d addr v => Sys2Proof.Machine.execDrvMemwr d addr v s
  | .drvInsert d image id1 id2 => Sys2Proof.Machine.execDrvInsert d image id1 id2 s
  | .drvEject d => Sys2Proof.Machine.execDrvEject d s
  | .drvSetWp d b => Sys2Proof.Machine.execDrvSetWp d b s
  | .reset => Sys2Proof.Machine.execReset s
  | .mechWrite d v => Sys2Proof.Machine.execMechWrite d v s
  | .gcrEncGroup b0 b1 b2 b3 => Sys2Proof.Machine.execGcrEncGroup b0 b1 b2 b3 s
  | .gcrDecGroup g0 g1 g2 g3 g4 => Sys2Proof.Machine.execGcrDecGroup g0 g1 g2 g3 g4 s
  | .gcrEncHeader track sector id1 id2 => Sys2Proof.Machine.execGcrEncHeader track sector id1 id2 s
  | .gcrDecHeader frame => Sys2Proof.Machine.execGcrDecHeader frame s
  | .gcrEncData payload => Sys2Proof.Machine.execGcrEncData payload s
  | .gcrDecData frame => Sys2Proof.Machine.execGcrDecData frame s
  | .trkReadByte d t => Sys2Proof.Machine.execTrkReadByte d t s
  | .trkWriteByte d t v => Sys2Proof.Machine.execTrkWriteByte d t v s
  | .trkIsSync d t => Sys2Proof.Machine.execTrkIsSync d t s
  | .trkBuild d t image id1 id2 => Sys2Proof.Machine.execTrkBuild d t image id1 id2 s
  | .trkUpdateSector d t image sector id1 id2 => Sys2Proof.Machine.execTrkUpdateSector d t image sector id1 id2 s

end Sys2Proof.Machine
end

