-- ==== Sys2Proof/Machine/Step.lean ====
section
/-! DEFINITION. One step of the block, and where a step finds its next operation (log 1). -/

namespace Sys2Proof.Machine

/-- One step: the environment's next request is taken, decoded and executed (spec/20_memory.md R85: operations happen one
at a time, in the environment's order). With no request pending nothing happens (spec/70_reset_and_hazards.md R370). A
request that is no operation is refused (spec/30_encoding.md R110). -/
def step (s : State) : Host.Outcome State Fault Refusal :=
  match fetch s with
  | none => .next s
  | some (r, rest) =>
    match decode r with
    | .error e => .refused (.notAnOperation e)
    | .ok i => exec i rest

/-- `s` with the request of a table word as the next one to be taken (log 1, log 2). -/
def State.withFetchWord (s : State) (nbits w : Nat) : State :=
  { s with pending := tableRequest nbits w :: s.pending }

end Sys2Proof.Machine
end

