-- ==== Sys2Proof/Safety.lean ====
section
/-! DEFINITION. The terms in which claims speak: the domain of an operation (spec/60_exceptions.md R320,
spec/93_implementation_defined.md U8, U9, U11, U14), the units it may change, and the invariants of the block
(spec/10_state.md R41, R45, R48, R49, spec/42_serial_bus.md R213, spec/45_drive_mechanics_map.md R293, R294,
spec/70_reset_and_hazards.md R354). -/

namespace Sys2Proof.Machine

/-! ### Domains -/

/-- Drive `d` is present (U8). -/
def State.hasDrive (s : State) (d : Nat) : Prop := d < s.drives.length

/-- The chip named by a class 00 or class 01 operation is present (U8). -/
def State.hasChip (s : State) : ChipRef → Prop
  | .standalone => True
  | .pic1 d => s.hasDrive d
  | .pic2 d => s.hasDrive d

/-- Drive `d` holds a disk with a buffer for track `t` of the geometry (U8). -/
def State.hasTrack (s : State) (d t : Nat) : Prop :=
  trackInRange s.cfg t ∧
    ∃ x b, s.drives[d]? = some x ∧ x.diskPresent = true ∧ x.tracks[t - 1]? = some b

/-- The inputs on which the spec defines an operation (U8, U9, U11, U14). That the class 01 operations on a chip inside a
drive are among them is the model's choice (log 10). -/
def inDomain (i : Instr) (s : State) : Prop :=
  match i with
  | .rdOrb c | .rdOra c | .rdDdrb c | .rdDdra c | .rdT1cl c | .rdT1ch c | .rdT1ll c | .rdT1lh c
  | .rdT2cl c | .rdT2ch c | .rdSr c | .rdAcr c | .rdPcr c | .rdIfr c | .rdIer c | .rdOranh c => s.hasChip c
  | .wrOrb c _ | .wrOra c _ | .wrDdrb c _ | .wrDdra c _ | .wrT1cl c _ | .wrT1ch c _ | .wrT1ll c _ | .wrT1lh c _
  | .wrT2cl c _ | .wrT2ch c _ | .wrSr c _ | .wrAcr c _ | .wrPcr c _ | .wrIfr c _ | .wrIer c _ | .wrOranh c _ =>
    s.hasChip c
  | .setCa1 c _ | .setCa2 c _ | .setCb1 c _ | .setCb2 c _ | .setPaIn c _ | .setPbIn c _ | .tick c _ | .resetPic c =>
    s.hasChip c
  | .hostSet _ _ _ | .busUpdate | .busGetHostInput | .busTick _ | .reset => True
  | .busAttach d | .busDetach d | .drvGetClkOut d | .drvGetDataOut d | .drvSetAtnIn d _ | .drvSetClkIn d _
  | .drvSetDataIn d _ | .drvTick d _ | .drvMemrd d _ | .drvMemwr d _ _ | .drvEject d | .drvSetWp d _ => s.hasDrive d
  | .mechWrite d v => ∃ x, s.drives[d]? = some x ∧ v = x.pic2.orb &&& x.pic2.ddrb
  | .drvInsert d image _ _ => s.hasDrive d ∧ Image.wellFormed image = true
  | .gcrEncGroup _ _ _ _ | .gcrDecGroup _ _ _ _ _ | .gcrEncHeader _ _ _ _ => True
  | .gcrDecHeader frame => frame.length = 10
  | .gcrEncData payload => payload.length = 256
  | .gcrDecData frame => frame.length = 325
  | .trkReadByte d t | .trkWriteByte d t _ | .trkIsSync d t => s.hasTrack d t
  | .trkBuild d t image _ _ => s.hasTrack d t ∧ Image.wellFormed image = true
  | .trkUpdateSector d t image sector _ _ =>
    s.hasTrack d t ∧ sector < sectorsOf s.cfg t ∧ Image.wellFormed image = true

/-! ### Units an operation names and may change -/

/-- The chip a class 00 or class 01 operation addresses (R102). -/
def chipNamed : Instr → Option ChipRef
  | .rdOrb c | .rdOra c | .rdDdrb c | .rdDdra c | .rdT1cl c | .rdT1ch c | .rdT1ll c | .rdT1lh c
  | .rdT2cl c | .rdT2ch c | .rdSr c | .rdAcr c | .rdPcr c | .rdIfr c | .rdIer c | .rdOranh c => some c
  | .wrOrb c _ | .wrOra c _ | .wrDdrb c _ | .wrDdra c _ | .wrT1cl c _ | .wrT1ch c _ | .wrT1ll c _ | .wrT1lh c _
  | .wrT2cl c _ | .wrT2ch c _ | .wrSr c _ | .wrAcr c _ | .wrPcr c _ | .wrIfr c _ | .wrIer c _ | .wrOranh c _ => some c
  | .setCa1 c _ | .setCa2 c _ | .setCb1 c _ | .setCb2 c _ | .setPaIn c _ | .setPbIn c _ | .tick c _ | .resetPic c =>
    some c
  | .hostSet _ _ _ | .busUpdate | .busGetHostInput | .busTick _ | .busAttach _ | .busDetach _ | .drvGetClkOut _
  | .drvGetDataOut _ | .drvSetAtnIn _ _ | .drvSetClkIn _ _ | .drvSetDataIn _ _ | .drvTick _ _ | .drvMemrd _ _
  | .drvMemwr _ _ _ | .drvInsert _ _ _ _ | .drvEject _ | .drvSetWp _ _ | .reset | .mechWrite _ _
  | .gcrEncGroup _ _ _ _ | .gcrDecGroup _ _ _ _ _ | .gcrEncHeader _ _ _ _ | .gcrDecHeader _ | .gcrEncData _
  | .gcrDecData _ | .trkReadByte _ _ | .trkWriteByte _ _ _ | .trkIsSync _ _ | .trkBuild _ _ _ _ _
  | .trkUpdateSector _ _ _ _ _ _ => none

/-- The drive of a chip, if it has one. -/
def driveOf : ChipRef → Option Nat
  | .standalone => none
  | .pic1 d => some d
  | .pic2 d => some d

/-- The drive an operation names, by itself or through the chip it addresses. -/
def driveNamed (i : Instr) : Option Nat :=
  match i with
  | .busAttach d | .busDetach d | .drvGetClkOut d | .drvGetDataOut d | .drvSetAtnIn d _ | .drvSetClkIn d _
  | .drvSetDataIn d _ | .drvTick d _ | .drvMemrd d _ | .drvMemwr d _ _ | .drvInsert d _ _ _ | .drvEject d
  | .drvSetWp d _ | .mechWrite d _ | .trkReadByte d _ | .trkWriteByte d _ _ | .trkIsSync d _ | .trkBuild d _ _ _ _
  | .trkUpdateSector d _ _ _ _ _ => some d
  | i => (chipNamed i).bind driveOf

/-- The drive and track number a track operation names. -/
def trackNamed (i : Instr) : Option (Nat × Nat) :=
  match i with
  | .trkReadByte d t | .trkWriteByte d t _ | .trkIsSync d t | .trkBuild d t _ _ _ | .trkUpdateSector d t _ _ _ _ =>
    some (d, t)
  | _ => none

/-- The drives an operation may change (spec/60_exceptions.md R330, R333). -/
def mayChangeDrive (i : Instr) (s : State) (d : Nat) : Prop :=
  match i with
  | .busUpdate | .busTick _ => d ∈ s.bus.attached
  | .reset => True
  | .busAttach _ | .busDetach _ | .drvGetClkOut _ | .drvGetDataOut _ | .trkIsSync _ _ => False
  | i => driveNamed i = some d

/-- The operations that change the standalone chip: the class 00 and class 01 operations on it, and RESET. -/
def mayChangeChip (i : Instr) : Prop := i = .reset ∨ chipNamed i = some .standalone

/-- The operations that change the bus's own state (R41, R61). -/
def changesBus : Instr → Bool
  | .hostSet _ _ _ | .busAttach _ | .busDetach _ | .reset => true
  | _ => false

/-- The operations that are events for the interrupt flags: the ticks and the control lines (R62), by themselves or
through the bus. -/
def raisesFlags : Instr → Bool
  | .tick _ _ | .drvTick _ _ | .busTick _ | .setCa1 _ _ | .setCa2 _ _ | .setCb1 _ _ | .setCb2 _ _
  | .drvSetAtnIn _ _ | .busUpdate => true
  | _ => false

/-- The operation sets the port inputs of a drive's chip, which the wiring rules set inside a drive (R185, log 10). -/
def setsWiredPins : Instr → Bool
  | .setPaIn .standalone _ | .setPbIn .standalone _ => false
  | .setPaIn _ _ | .setPbIn _ _ => true
  | _ => false

/-! ### Sequences of operations -/

/-- Operations in order, as one agent issues them (spec/30_encoding.md R113), up to the first that is refused. -/
def runAll : List Instr → State → Host.Outcome State Fault Refusal
  | [], s => .next s
  | i :: is, s =>
    match exec i s with
    | .next t => runAll is t
    | .fault f => .fault f
    | .refused r => .refused r

/-- `k` bytes of track `t` consumed one after the other (R271): the drive after them, and for each byte whether it was
signalled. -/
def consumeMany (cfg : Config) (t : Nat) : Nat → Drive → Drive × List Bool
  | 0, x => (x, [])
  | k + 1, x =>
    let first := x.consumeByte cfg t
    let rest := consumeMany cfg t k first.1
    (rest.1, first.2 :: rest.2)

/-! ### Effects in the spec's own terms -/

/-- `y` is drive `x` after its mechanics have seen the port value `w` (R290, R291): the phase, the motor and the LED are
`w`'s bits, and the head moved by at most one half-track. -/
structure SeesPortValue (cfg : Config) (w : Byte) (x y : Drive) : Prop where
  phase : y.phase.toNat = w.toNat / 2 ^ cfg.mStep % 4
  motor : y.motor = w.getLsbD cfg.mMotor
  led : y.led = w.getLsbD cfg.mLed
  forward : (y.phase.toNat + 4 - x.phase.toNat) % 4 = 1 → y.ht = min (x.ht + 1) (2 * (cfg.numTracks - 1))
  backward : (y.phase.toNat + 4 - x.phase.toNat) % 4 = 3 → y.ht = x.ht - 1
  still : (y.phase.toNat + 4 - x.phase.toNat) % 4 = 0 ∨ (y.phase.toNat + 4 - x.phase.toNat) % 4 = 2 → y.ht = x.ht
  others : y = { x with ht := y.ht, phase := y.phase, motor := y.motor, led := y.led }

/-- The level `level` now on a control line is the edge its polarity selects (R11, R180). -/
def isActiveEdge (positive prev level : Bool) : Prop :=
  (positive = true ∧ prev = false ∧ level = true) ∨ (positive = false ∧ prev = true ∧ level = false)

/-- Flags `g` are flags `f` with `k` set where `on` holds. -/
def flagSetWhen (on : Prop) (k : Nat) (f g : Flags) : Prop :=
  ∀ i, i < 7 → (g.getLsbD i = true ↔ f.getLsbD i = true ∨ (i = k ∧ on))

/-- Flags `g` are flags `f` with every flag of `ks` cleared. -/
def flagsCleared (ks : List Nat) (f g : Flags) : Prop :=
  ∀ i, i < 7 → (g.getLsbD i = true ↔ f.getLsbD i = true ∧ i ∉ ks)

/-- The flags that a port access clears (R132): the primary line's, and the secondary line's unless its control field is
one of the two independent modes. -/
def portFlags (primary secondary : Nat) (ctrl : BitVec 3) : List Nat :=
  if ctrl = 0b001#3 ∨ ctrl = 0b011#3 then [primary] else [primary, secondary]

/-- The number that a byte string spells, first byte most significant. -/
def bytesNumber (bs : List Byte) : Nat := bs.foldl (fun n b => n * 256 + b.toNat) 0

/-- The number that a code string spells in five-bit digits, first code most significant (R105). -/
def codesNumber (cs : List (BitVec 5)) : Nat := cs.foldl (fun n c => n * 32 + c.toNat) 0

/-- The eight nibbles of four bytes, high nibble first (R105). -/
def nibblesOf (bs : List Byte) : List Nat := bs.flatMap fun b => [b.toNat / 16, b.toNat % 16]

/-! ### Invariants -/

/-- A drive is well formed: the head in range (R45), canonical memories of the drive's sizes (R49), buffers exactly while
a disk is present, each of its track's size with its cursor inside (R48). -/
structure DriveOk (cfg : Config) (x : Drive) : Prop where
  head : x.ht ≤ htMax cfg
  ramForm : Memory.wf x.ram = true
  ramRange : Memory.within cfg.ramSize x.ram = true
  romForm : Memory.wf x.rom = true
  romRange : Memory.within cfg.romSize x.rom = true
  noDisk : x.diskPresent = false → x.tracks = []
  disk : x.diskPresent = true → x.tracks.length = cfg.numTracks
  sizes : ∀ k b, x.tracks[k]? = some b → b.buf.length = trackSizeOf cfg (k + 1) ∧ b.cursor < b.buf.length

/-- The block is well formed: usable parameters (R7; log 18), NUM_DRIVES drives, the attached drives a set of present
drives in canonical form (R41), every drive well formed. -/
structure StateOk (s : State) : Prop where
  config : ConfigUsable s.cfg
  count : s.drives.length = s.cfg.numDrives
  rising : s.bus.attached.Pairwise (· < ·)
  present : ∀ d ∈ s.bus.attached, d < s.drives.length
  drives : ∀ x ∈ s.drives, DriveOk s.cfg x

/-- The mechanics follow the output bits of PIC2's port B (R354). -/
structure MechanicsFollow (cfg : Config) (x : Drive) : Prop where
  phase : x.phase = portPhase cfg (x.pic2.orb &&& x.pic2.ddrb)
  motor : x.motor = portMotor cfg (x.pic2.orb &&& x.pic2.ddrb)
  led : x.led = portLed cfg (x.pic2.orb &&& x.pic2.ddrb)

/-- The port inputs of a drive's chips are as wired (R213, R293, R294). -/
structure PinsWired (cfg : Config) (x : Drive) : Prop where
  pic1B : x.pic1.inb = pic1Inputs cfg x.atnIn x.clkIn x.dataIn
  pic1A : x.pic1.ina = 0xFF#8
  pic2B : x.pic2.inb = pic2Inputs cfg x.inSync x.writeProtect
  pic2A : x.pic2.ina = x.headByte

end Sys2Proof.Machine
end

