-- ==== Sys2Proof/Certificates/Slice0/Obligations.lean ====
section
/-! DEFINITION. The statements about the block, written from the numbered rules of spec/. In each, `s` is any state (also one
that no run reaches), `c` any chip, `p` what that chip holds, `d` a drive index and `x` what that drive holds. A next state
is given by the fields that change, so that everything else in it is as before; `State.setChip` and `State.updateDrive`
replace one chip or one drive and nothing else. -/

open Sys2Proof Sys2Proof.Machine

/-! ### Encoding and the step -/

/-- Decoding the request of a well-formed operation gives that operation back, with every operand at every value. -/
def Obligations.DecodeOfEncodeIsTheOperation : Prop :=
  ∀ i : Instr, i.wellFormed = true → decode (encode i) = .ok i

/-- Words written bit by bit from R102 and R103, one or two of each class, decode to their operations. -/
def Obligations.WordsOfTheOpcodeMapDecode : Prop :=
  decode ⟨.standalone, 0b00000110#8, []⟩ = .ok (.rdT1ll .standalone) ∧
  decode ⟨.drive 1, 0b00011101#8, []⟩ = .ok (.rdIfr (.pic2 1)) ∧
  decode ⟨.drive 0, 0b00100011#8, [0x1FF]⟩ = .ok (.wrDdra (.pic1 0) 0xFF#8) ∧
  decode ⟨.drive 0, 0b01100001#8, []⟩ = .ok (.setCa1 (.pic2 0) true) ∧
  decode ⟨.standalone, 0b01001100#8, [300]⟩ = .ok (.tick .standalone 300) ∧
  decode ⟨.drive 0, 0b10000000#8, [0, 1, 1]⟩ = .ok (.hostSet false true true) ∧
  decode ⟨.drive 0, 0b10001101#8, [1, 0x1C00, 4]⟩ = .ok (.drvMemwr 1 0x1C00 4#8) ∧
  decode ⟨.drive 0, 0b11000001#8, [0x52, 0x94, 0xA5, 0x29, 0x4A]⟩ =
    .ok (.gcrDecGroup 0x52#8 0x94#8 0xA5#8 0x29#8 0x4A#8) ∧
  decode ⟨.drive 0, 0b11000111#8, [0, 18, 0xAA]⟩ = .ok (.trkWriteByte 0 18 0xAA#8)

/-- An operation is decoded from its own selector only, and what is decoded is well formed; the reserved selectors, and a
level on a kind that takes none (R110), are no operation and are refused by a step; every other selector is an operation. -/
def Obligations.SelectorsDecodeExactlyAsTheMapSays : Prop :=
  (∀ (r : Request) (i : Instr), decode r = .ok i → (encode i).opsel = r.opsel ∧ i.wellFormed = true) ∧
  ∀ opsel : BitVec 8,
    if (64 ≤ opsel.toNat ∧ opsel.toNat < 128 ∧
          (8 ≤ opsel.toNat % 32 / 2 ∨ (4 ≤ opsel.toNat % 32 / 2 ∧ opsel.toNat % 2 = 1))) ∨
        (147 ≤ opsel.toNat ∧ opsel.toNat < 192) ∨ 203 ≤ opsel.toNat then
      ∀ (s : State) (u : UnitRef) (args : List Nat) (rest : List Request), s.pending = ⟨u, opsel, args⟩ :: rest →
        ∃ e, decode ⟨u, opsel, args⟩ = .error e ∧ step s = .refused (.notAnOperation e)
    else ∃ (args : List Nat) (i : Instr), decode ⟨.drive 0, opsel, args⟩ = .ok i

/-- A step takes the next request and executes the operation it decodes to, in the state without that request; a request
that is no operation is refused; with no request nothing happens. The queue of requests is the model's (log 1). -/
def Obligations.StepRunsTheNextRequest : Prop :=
  (∀ (s : State) (r : Request) (rest : List Request) (i : Instr), s.pending = r :: rest → decode r = .ok i →
    step s = exec i { s with pending := rest }) ∧
  (∀ (s : State) (r : Request) (rest : List Request) (e : DecodeError), s.pending = r :: rest → decode r = .error e →
    step s = .refused (.notAnOperation e)) ∧
  (∀ s : State, s.pending = [] → step s = .next s) ∧
  ∀ (s : State) (nbits w : Nat) (i : Instr), decodeTableWord nbits w = some i → step (s.withFetchWord nbits w) = exec i s

/-- Every operation of R103 completes on every state and operands in its domain, and outside it is refused (R320: "it always
completes"; the domains are those of U8, U9, U11 and U14). That SET_PA_IN, SET_PB_IN, SET_CA1, SET_CA2, SET_CB1 and SET_CB2
are in their domain on a chip inside a drive, where R185, R213, R293 and R294 expect none from outside, is the model's choice
(log 10). No operation faults. -/
def Obligations.OperationsCompleteExactlyInTheirDomain : Prop :=
  ∀ (i : Instr) (s : State), (inDomain i s → ∃ t, exec i s = .next t) ∧ (¬ inDomain i s → ∃ r, exec i s = .refused r)

/-- A refusal names its reason (U8, U9, U11, U14): a drive that is not present, a track that the geometry does not have, a
disk that is not there, a sector that the track does not have, a byte string of the wrong length, an image sector that is not
256 bytes, a MECH_WRITE whose value is not the output bits of PIC2's port B. There is no other reason: that a pin operation
on a chip inside a drive is not refused is the model's choice (log 10). -/
def Obligations.RefusalsNameTheirReason : Prop :=
  ∀ (i : Instr) (s : State) (r : Refusal), exec i s = .refused r →
    (∃ d, r = .noSuchDrive ∧ driveNamed i = some d ∧ s.drives.length ≤ d) ∨
    (∃ d t x, trackNamed i = some (d, t) ∧ s.drives[d]? = some x ∧
      ((r = .noSuchTrack ∧ ¬ trackInRange s.cfg t) ∨
        (r = .noDisk ∧ trackInRange s.cfg t ∧ (x.diskPresent = false ∨ x.tracks[t - 1]? = none)))) ∨
    (∃ d t image n id1 id2, r = .noSuchSector ∧ i = .trkUpdateSector d t image n id1 id2 ∧ sectorsOf s.cfg t ≤ n) ∨
    (∃ bs : List Byte, r = .operandLength ∧ ((i = .gcrDecHeader bs ∧ bs.length ≠ 10) ∨
      (i = .gcrEncData bs ∧ bs.length ≠ 256) ∨ (i = .gcrDecData bs ∧ bs.length ≠ 325))) ∨
    (∃ d t image n id1 id2, r = .imageSector ∧ (i = .drvInsert d image id1 id2 ∨ i = .trkBuild d t image id1 id2 ∨
      i = .trkUpdateSector d t image n id1 id2) ∧ ∃ e ∈ image, e.bytes.length ≠ 256) ∨
    (∃ d v x, r = .mechPortValue ∧ i = .mechWrite d v ∧ s.drives[d]? = some x ∧ v ≠ x.pic2.orb &&& x.pic2.ddrb)

/-! ### Register reads -/

/-- RD_ORB (R133): output bits of port B from `orb`, input bits from the latch or the pins; `F_CB1` is cleared, and `F_CB2`
unless CB2 is independent. -/
def Obligations.RdOrbReturnsPortBAndClearsItsFlags : Prop :=
  ∀ (s : State) (c : ChipRef) (p : Pic), s.chipAt c = some p →
    (encode (.rdOrb c)).opsel = 0b000#3 ++ BitVec.ofBool c.second ++ 0b0000#4 ∧
    ∃ (v : Byte) (f : Flags),
      exec (.rdOrb c) s = .next ((s.setChip c { p with ifr := f }).returning (.byte v)) ∧
      (∀ b, b < 8 → v.getLsbD b =
        if p.ddrb.getLsbD b then p.orb.getLsbD b else if p.acr.getLsbD 1 then p.ilb.getLsbD b else p.inb.getLsbD b) ∧
      flagsCleared (portFlags 4 3 (p.pcr.extractLsb' 5 3)) p.ifr f

/-- RD_ORA (R134) and RD_ORANH (R148): port A in the same way; RD_ORA clears `F_CA1`, and `F_CA2` unless CA2 is
independent, RD_ORANH clears nothing. -/
def Obligations.RdOraAndRdOranhReturnPortA : Prop :=
  ∀ (s : State) (c : ChipRef) (p : Pic), s.chipAt c = some p →
    (encode (.rdOra c)).opsel = 0b000#3 ++ BitVec.ofBool c.second ++ 0b0001#4 ∧
    (encode (.rdOranh c)).opsel = 0b000#3 ++ BitVec.ofBool c.second ++ 0b1111#4 ∧
    ∃ (v : Byte) (f : Flags),
      exec (.rdOra c) s = .next ((s.setChip c { p with ifr := f }).returning (.byte v)) ∧
      exec (.rdOranh c) s = .next (s.returning (.byte v)) ∧
      (∀ b, b < 8 → v.getLsbD b =
        if p.ddra.getLsbD b then p.ora.getLsbD b else if p.acr.getLsbD 0 then p.ila.getLsbD b else p.ina.getLsbD b) ∧
      flagsCleared (portFlags 1 0 (p.pcr.extractLsb' 1 3)) p.ifr f

/-- The register reads without a side effect (R135, R136, R138, R139, R140, R142, R144, R145, R147): each returns its byte
and changes nothing; the enable register's bit 7 reads 1. -/
def Obligations.PlainRegisterReadsReturnTheirByte : Prop :=
  ∀ (s : State) (c : ChipRef) (p : Pic), s.chipAt c = some p →
    ((encode (.rdDdrb c)).opsel = 0b000#3 ++ BitVec.ofBool c.second ++ 0b0010#4 ∧
      exec (.rdDdrb c) s = .next (s.returning (.byte p.ddrb))) ∧
    ((encode (.rdDdra c)).opsel = 0b000#3 ++ BitVec.ofBool c.second ++ 0b0011#4 ∧
      exec (.rdDdra c) s = .next (s.returning (.byte p.ddra))) ∧
    ((encode (.rdT1ch c)).opsel = 0b000#3 ++ BitVec.ofBool c.second ++ 0b0101#4 ∧
      exec (.rdT1ch c) s = .next (s.returning (.byte (BitVec.ofNat 8 (p.t1c.toNat / 256))))) ∧
    ((encode (.rdT1ll c)).opsel = 0b000#3 ++ BitVec.ofBool c.second ++ 0b0110#4 ∧
      exec (.rdT1ll c) s = .next (s.returning (.byte (BitVec.ofNat 8 (p.t1l.toNat % 256))))) ∧
    ((encode (.rdT1lh c)).opsel = 0b000#3 ++ BitVec.ofBool c.second ++ 0b0111#4 ∧
      exec (.rdT1lh c) s = .next (s.returning (.byte (BitVec.ofNat 8 (p.t1l.toNat / 256))))) ∧
    ((encode (.rdT2ch c)).opsel = 0b000#3 ++ BitVec.ofBool c.second ++ 0b1001#4 ∧
      exec (.rdT2ch c) s = .next (s.returning (.byte (BitVec.ofNat 8 (p.t2c.toNat / 256))))) ∧
    ((encode (.rdAcr c)).opsel = 0b000#3 ++ BitVec.ofBool c.second ++ 0b1011#4 ∧
      exec (.rdAcr c) s = .next (s.returning (.byte p.acr))) ∧
    ((encode (.rdPcr c)).opsel = 0b000#3 ++ BitVec.ofBool c.second ++ 0b1100#4 ∧
      exec (.rdPcr c) s = .next (s.returning (.byte p.pcr))) ∧
    (encode (.rdIer c)).opsel = 0b000#3 ++ BitVec.ofBool c.second ++ 0b1110#4 ∧
      exec (.rdIer c) s = .next (s.returning (.byte (BitVec.ofNat 8 (128 + p.ier.toNat))))

/-- RD_T1CL (R137), RD_T2CL (R141) and RD_SR (R143): the byte is returned and its flag cleared; RD_SR also sets the
remaining-bit counter to 8. The counters and the shift register keep their values. -/
def Obligations.CounterAndShiftReadsClearTheirFlag : Prop :=
  ∀ (s : State) (c : ChipRef) (p : Pic), s.chipAt c = some p →
    (encode (.rdT1cl c)).opsel = 0b000#3 ++ BitVec.ofBool c.second ++ 0b0100#4 ∧
    (encode (.rdT2cl c)).opsel = 0b000#3 ++ BitVec.ofBool c.second ++ 0b1000#4 ∧
    (encode (.rdSr c)).opsel = 0b000#3 ++ BitVec.ofBool c.second ++ 0b1010#4 ∧
    ∃ f6 f5 f2 : Flags,
      exec (.rdT1cl c) s =
        .next ((s.setChip c { p with ifr := f6 }).returning (.byte (BitVec.ofNat 8 (p.t1c.toNat % 256)))) ∧
      flagsCleared [6] p.ifr f6 ∧
      exec (.rdT2cl c) s =
        .next ((s.setChip c { p with ifr := f5 }).returning (.byte (BitVec.ofNat 8 (p.t2c.toNat % 256)))) ∧
      flagsCleared [5] p.ifr f5 ∧
      exec (.rdSr c) s = .next ((s.setChip c { p with ifr := f2, srCnt := 8 }).returning (.byte p.sr)) ∧
      flagsCleared [2] p.ifr f2

/-- RD_IFR (R146) returns the seven flags with the derived "any" bit in bit 7 and changes nothing; that bit, which is the
chip's interrupt output (R190), is 1 exactly when some flag is both set and enabled. -/
def Obligations.RdIfrReturnsTheFlagsAndTheAnyBit : Prop :=
  ∀ (s : State) (c : ChipRef) (p : Pic), s.chipAt c = some p →
    (encode (.rdIfr c)).opsel = 0b000#3 ++ BitVec.ofBool c.second ++ 0b1101#4 ∧
    ∃ v : Byte, exec (.rdIfr c) s = .next (s.returning (.byte v)) ∧
      (∀ k, k < 7 → v.getLsbD k = p.ifr.getLsbD k) ∧ v.getLsbD 7 = p.irq ∧
      (p.irq = true ↔ ∃ k, k < 7 ∧ p.ifr.getLsbD k = true ∧ p.ier.getLsbD k = true)

/-! ### Register writes -/

/-- WR_ORA (R150), WR_ORANH (R164) and WR_DDRA (R152): the register takes all 8 bits; only WR_ORA clears flags, as a read of
register 1 does. -/
def Obligations.PortAWritesStoreTheByte : Prop :=
  ∀ (s : State) (c : ChipRef) (p : Pic) (v : Byte), s.chipAt c = some p →
    (encode (.wrOra c v)).opsel = 0b001#3 ++ BitVec.ofBool c.second ++ 0b0001#4 ∧
    (encode (.wrOranh c v)).opsel = 0b001#3 ++ BitVec.ofBool c.second ++ 0b1111#4 ∧
    (encode (.wrDdra c v)).opsel = 0b001#3 ++ BitVec.ofBool c.second ++ 0b0011#4 ∧
    exec (.wrOranh c v) s = .next ((s.setChip c { p with ora := v }).returning .none) ∧
    exec (.wrDdra c v) s = .next ((s.setChip c { p with ddra := v }).returning .none) ∧
    ∃ f : Flags, exec (.wrOra c v) s = .next ((s.setChip c { p with ora := v, ifr := f }).returning .none) ∧
      flagsCleared (portFlags 1 0 (p.pcr.extractLsb' 1 3)) p.ifr f

/-- WR_ORB (R149) and WR_DDRB (R151): the register takes all 8 bits, and WR_ORB clears the port B flags; on the standalone
chip and on PIC1 that is all, on PIC2 of a drive the mechanics then see the output bits of port B (R303). -/
def Obligations.PortBWritesStoreTheByteAndPic2DrivesTheMechanics : Prop :=
  ∀ (s : State) (c : ChipRef) (p : Pic) (v : Byte), s.chipAt c = some p →
    (encode (.wrOrb c v)).opsel = 0b001#3 ++ BitVec.ofBool c.second ++ 0b0000#4 ∧
    (encode (.wrDdrb c v)).opsel = 0b001#3 ++ BitVec.ofBool c.second ++ 0b0010#4 ∧
    ∃ f : Flags, flagsCleared (portFlags 4 3 (p.pcr.extractLsb' 5 3)) p.ifr f ∧
      (c.second = false →
        exec (.wrOrb c v) s = .next ((s.setChip c { p with orb := v, ifr := f }).returning .none) ∧
        exec (.wrDdrb c v) s = .next ((s.setChip c { p with ddrb := v }).returning .none)) ∧
      ∀ (d : Nat) (x : Drive), c = .pic2 d → s.drives[d]? = some x →
        ∃ y z : Drive,
          SeesPortValue s.cfg (v &&& p.ddrb) { x with pic2 := { p with orb := v, ifr := f } } y ∧
          exec (.wrOrb c v) s = .next ((s.updateDrive d fun _ => y).returning .none) ∧
          SeesPortValue s.cfg (p.orb &&& v) { x with pic2 := { p with ddrb := v } } z ∧
          exec (.wrDdrb c v) s = .next ((s.updateDrive d fun _ => z).returning .none)

/-- WR_T1CL (R153), WR_T1LL (R155) and WR_T2CL (R157): the low byte of the latch is replaced and nothing else changes. -/
def Obligations.LowByteWritesReachTheLatchOnly : Prop :=
  ∀ (s : State) (c : ChipRef) (p : Pic) (v : Byte), s.chipAt c = some p →
    (encode (.wrT1cl c v)).opsel = 0b001#3 ++ BitVec.ofBool c.second ++ 0b0100#4 ∧
    (encode (.wrT1ll c v)).opsel = 0b001#3 ++ BitVec.ofBool c.second ++ 0b0110#4 ∧
    (encode (.wrT2cl c v)).opsel = 0b001#3 ++ BitVec.ofBool c.second ++ 0b1000#4 ∧
    ∃ l1 l2 : Word16, l1.toNat = p.t1l.toNat / 256 * 256 + v.toNat ∧ l2.toNat = p.t2l.toNat / 256 * 256 + v.toNat ∧
      exec (.wrT1cl c v) s = .next ((s.setChip c { p with t1l := l1 }).returning .none) ∧
      exec (.wrT1ll c v) s = .next ((s.setChip c { p with t1l := l1 }).returning .none) ∧
      exec (.wrT2cl c v) s = .next ((s.setChip c { p with t2l := l2 }).returning .none)

/-- WR_T1CH (R154), WR_T1LH (R156) and WR_T2CH (R158): the high byte goes into the latch; WR_T1CH and WR_T2CH load the
counter from the whole latch and start the timer, WR_T1LH reloads a running counter only; the timer's flag is cleared, and
WR_T1CH pulls the timer output low where it drives the pin. -/
def Obligations.HighByteWritesLoadTheTimer : Prop :=
  ∀ (s : State) (c : ChipRef) (p : Pic) (v : Byte), s.chipAt c = some p →
    (encode (.wrT1ch c v)).opsel = 0b001#3 ++ BitVec.ofBool c.second ++ 0b0101#4 ∧
    (encode (.wrT1lh c v)).opsel = 0b001#3 ++ BitVec.ofBool c.second ++ 0b0111#4 ∧
    (encode (.wrT2ch c v)).opsel = 0b001#3 ++ BitVec.ofBool c.second ++ 0b1001#4 ∧
    ∃ (l1 l2 : Word16) (f6 f5 : Flags),
      l1.toNat = v.toNat * 256 + p.t1l.toNat % 256 ∧ l2.toNat = v.toNat * 256 + p.t2l.toNat % 256 ∧
      flagsCleared [6] p.ifr f6 ∧ flagsCleared [5] p.ifr f5 ∧
      exec (.wrT1ch c v) s = .next ((s.setChip c { p with
        t1l := l1, t1c := l1, t1Run := true, ifr := f6, pb7Out := p.pb7Out && !p.acr.getLsbD 7 }).returning .none) ∧
      exec (.wrT1lh c v) s = .next ((s.setChip c { p with
        t1l := l1, t1c := if p.t1Run then l1 else p.t1c, ifr := f6 }).returning .none) ∧
      exec (.wrT2ch c v) s = .next ((s.setChip c { p with
        t2l := l2, t2c := l2, t2Run := true, ifr := f5 }).returning .none)

/-- WR_SR (R159), WR_ACR (R160) and WR_PCR (R161): all 8 bits are stored; WR_SR also clears `F_SR` and sets the
remaining-bit counter to 8, WR_ACR leaves the timer output and WR_PCR the recorded line levels and the flags. -/
def Obligations.ShiftAndControlWritesStoreTheByte : Prop :=
  ∀ (s : State) (c : ChipRef) (p : Pic) (v : Byte), s.chipAt c = some p →
    (encode (.wrSr c v)).opsel = 0b001#3 ++ BitVec.ofBool c.second ++ 0b1010#4 ∧
    (encode (.wrAcr c v)).opsel = 0b001#3 ++ BitVec.ofBool c.second ++ 0b1011#4 ∧
    (encode (.wrPcr c v)).opsel = 0b001#3 ++ BitVec.ofBool c.second ++ 0b1100#4 ∧
    exec (.wrAcr c v) s = .next ((s.setChip c { p with acr := v }).returning .none) ∧
    exec (.wrPcr c v) s = .next ((s.setChip c { p with pcr := v }).returning .none) ∧
    ∃ f : Flags, exec (.wrSr c v) s = .next ((s.setChip c { p with sr := v, srCnt := 8, ifr := f }).returning .none) ∧
      flagsCleared [2] p.ifr f

/-- WR_IFR (R162) clears exactly the flags whose bit is 1 in the written byte and ignores bit 7; WR_IER (R163) sets or
clears, by bit 7, exactly the enables whose bit is 1. -/
def Obligations.WrIfrClearsFlagsAndWrIerSetsOrClearsEnables : Prop :=
  ∀ (s : State) (c : ChipRef) (p : Pic) (v : Byte), s.chipAt c = some p →
    (encode (.wrIfr c v)).opsel = 0b001#3 ++ BitVec.ofBool c.second ++ 0b1101#4 ∧
    (encode (.wrIer c v)).opsel = 0b001#3 ++ BitVec.ofBool c.second ++ 0b1110#4 ∧
    ∃ f e : Flags,
      exec (.wrIfr c v) s = .next ((s.setChip c { p with ifr := f }).returning .none) ∧
      (∀ k, k < 7 → f.getLsbD k = (p.ifr.getLsbD k && !v.getLsbD k)) ∧
      exec (.wrIer c v) s = .next ((s.setChip c { p with ier := e }).returning .none) ∧
      ∀ k, k < 7 → e.getLsbD k = if v.getLsbD k then v.getLsbD 7 else p.ier.getLsbD k

/-! ### Control lines, port inputs and timers -/

/-- SET_CA1 (R180), SET_CA2 (R181), SET_CB1 (R182) and SET_CB2 (R183): the level is recorded, and the edge that the polarity
bit selects sets the line's flag, on CA2 and CB2 in the input modes only. With input latching enabled that edge on CA1 or CB1
copies all eight live pin levels of the port into its latch. Any other report changes the recorded level only. R213, R293
and R294 connect no such line from outside to a chip inside a drive; that the model executes the four operations there as on
the standalone chip is its choice (log 10). -/
def Obligations.ControlLinesFlagAndLatchOnTheirActiveEdge : Prop :=
  ∀ (s : State) (c : ChipRef) (p : Pic) (l : Bool), s.chipAt c = some p →
    (encode (.setCa1 c l)).opsel = 0b01#2 ++ BitVec.ofBool c.second ++ 0b0000#4 ++ BitVec.ofBool l ∧
    (encode (.setCa2 c l)).opsel = 0b01#2 ++ BitVec.ofBool c.second ++ 0b0001#4 ++ BitVec.ofBool l ∧
    (encode (.setCb1 c l)).opsel = 0b01#2 ++ BitVec.ofBool c.second ++ 0b0010#4 ++ BitVec.ofBool l ∧
    (encode (.setCb2 c l)).opsel = 0b01#2 ++ BitVec.ofBool c.second ++ 0b0011#4 ++ BitVec.ofBool l ∧
    ∃ (f1 f0 f4 f3 : Flags) (la lb : Byte),
      exec (.setCa1 c l) s = .next ((s.setChip c { p with ca1Prev := l, ifr := f1, ila := la }).returning .none) ∧
      flagSetWhen (isActiveEdge (p.pcr.getLsbD 0) p.ca1Prev l) 1 p.ifr f1 ∧
      (isActiveEdge (p.pcr.getLsbD 0) p.ca1Prev l ∧ p.acr.getLsbD 0 = true → la = p.ina) ∧
      (¬ (isActiveEdge (p.pcr.getLsbD 0) p.ca1Prev l ∧ p.acr.getLsbD 0 = true) → la = p.ila) ∧
      exec (.setCa2 c l) s = .next ((s.setChip c { p with ca2Prev := l, ifr := f0 }).returning .none) ∧
      flagSetWhen (p.pcr.getLsbD 3 = false ∧ isActiveEdge (p.pcr.getLsbD 2) p.ca2Prev l) 0 p.ifr f0 ∧
      exec (.setCb1 c l) s = .next ((s.setChip c { p with cb1Prev := l, ifr := f4, ilb := lb }).returning .none) ∧
      flagSetWhen (isActiveEdge (p.pcr.getLsbD 4) p.cb1Prev l) 4 p.ifr f4 ∧
      (isActiveEdge (p.pcr.getLsbD 4) p.cb1Prev l ∧ p.acr.getLsbD 1 = true → lb = p.inb) ∧
      (¬ (isActiveEdge (p.pcr.getLsbD 4) p.cb1Prev l ∧ p.acr.getLsbD 1 = true) → lb = p.ilb) ∧
      exec (.setCb2 c l) s = .next ((s.setChip c { p with cb2Prev := l, ifr := f3 }).returning .none) ∧
      flagSetWhen (p.pcr.getLsbD 7 = false ∧ isActiveEdge (p.pcr.getLsbD 6) p.cb2Prev l) 3 p.ifr f3

/-- SET_PA_IN (R184) and SET_PB_IN (R185): the eight live pin levels are replaced and nothing else changes. R185 says that
the environment does not issue SET_PB_IN to a chip inside a drive; that the model executes both there as on the standalone
chip is its choice (log 10). -/
def Obligations.PortInputOperationsSetTheLivePins : Prop :=
  ∀ (s : State) (c : ChipRef) (p : Pic) (v : Byte), s.chipAt c = some p →
    (encode (.setPaIn c v)).opsel = 0b01#2 ++ BitVec.ofBool c.second ++ 0b01000#5 ∧
    (encode (.setPbIn c v)).opsel = 0b01#2 ++ BitVec.ofBool c.second ++ 0b01010#5 ∧
    exec (.setPaIn c v) s = .next ((s.setChip c { p with ina := v }).returning .none) ∧
    exec (.setPbIn c v) s = .next ((s.setChip c { p with inb := v }).returning .none)

/-- TICK (R170): `n` repetitions of one cycle, which is timer 1's cycle and then timer 2's; no cycle changes nothing, and
`a` cycles followed by `b` are `a + b` cycles. -/
def Obligations.TickRepeatsTheSingleCycle : Prop :=
  ∀ (s : State) (c : ChipRef) (p : Pic), s.chipAt c = some p →
    (∀ n, (encode (.tick c n)).opsel = 0b01#2 ++ BitVec.ofBool c.second ++ 0b01100#5 ∧
      exec (.tick c n) s =
        .next ((s.setChip c ((fun q : Pic => (q.t1Cycle s.cfg).t2Cycle)^[n] p)).returning .none)) ∧
    exec (.tick c 0) s = .next (s.returning .none) ∧
    ∀ a b, ∃ t, exec (.tick c a) s = .next t ∧ exec (.tick c b) t = exec (.tick c (a + b)) s

/-- Timer 1 between loads (R171): a timer that does not run is not changed by any number of cycles; a running counter `N`
counts `n` cycles down to `N - n` without a flag for `n` up to `N`, and sets its flag exactly from `N + 1` cycles on. -/
def Obligations.Timer1UnderflowsExactlyPastItsCount : Prop :=
  ∀ (s : State) (c : ChipRef) (p : Pic) (n : Nat), s.chipAt c = some p →
    ∃ q : Pic, exec (.tick c n) s = .next ((s.setChip c q).returning .none) ∧ q.t1l = p.t1l ∧
      (p.t1Run = false → q.t1c = p.t1c ∧ q.t1Run = false ∧ q.pb7Out = p.pb7Out ∧
        q.ifr.getLsbD 6 = p.ifr.getLsbD 6) ∧
      (p.t1Run = true →
        (n ≤ p.t1c.toNat → q.t1c.toNat = p.t1c.toNat - n ∧ q.t1Run = true ∧ q.pb7Out = p.pb7Out ∧
          q.ifr.getLsbD 6 = p.ifr.getLsbD 6) ∧
        (p.t1c.toNat < n → q.ifr.getLsbD 6 = true))

/-- Timer 1's underflow (R172): the flag is set; a one-shot timer stops with the counter at 0xFFFF, where it stays, and the
timer output high if it drives the pin; a continuous timer reloads to the latch less one plus T_RELOAD_ADJ (16 bits) and
toggles the output if it drives the pin. With T_RELOAD_ADJ 0 a counter `N` ticked by `n > N` cycles ends at the latch less
the overshoot `n - N`, until the next underflow: the period is the latch's value. -/
def Obligations.Timer1UnderflowStopsOrReloadsWithOvershoot : Prop :=
  ∀ (s : State) (c : ChipRef) (p : Pic), s.chipAt c = some p → p.t1Run = true →
    (p.acr.getLsbD 6 = false → ∀ n, p.t1c.toNat < n →
      ∃ q : Pic, exec (.tick c n) s = .next ((s.setChip c q).returning .none) ∧ q.ifr.getLsbD 6 = true ∧
        q.t1Run = false ∧ q.t1c = 0xFFFF#16 ∧ q.pb7Out = (p.pb7Out || p.acr.getLsbD 7)) ∧
    (p.acr.getLsbD 6 = true →
      (p.t1c = 0#16 → ∃ q : Pic, exec (.tick c 1) s = .next ((s.setChip c q).returning .none) ∧
        q.ifr.getLsbD 6 = true ∧ q.t1Run = true ∧
        q.t1c = BitVec.ofNat 16 (p.t1l.toNat + 65535 + s.cfg.tReloadAdj) ∧
        q.pb7Out = (p.pb7Out ^^ p.acr.getLsbD 7)) ∧
      (s.cfg.tReloadAdj = 0 → ∀ n, p.t1c.toNat < n → n ≤ p.t1c.toNat + p.t1l.toNat →
        ∃ q : Pic, exec (.tick c n) s = .next ((s.setChip c q).returning .none) ∧ q.ifr.getLsbD 6 = true ∧
          q.t1Run = true ∧ q.t1c.toNat = p.t1l.toNat - (n - p.t1c.toNat) ∧
          q.pb7Out = (p.pb7Out ^^ p.acr.getLsbD 7)))

/-- Timer 2 (R173) is one-shot whatever the auxiliary control register holds: not running, it is not changed; a running
counter `N` counts `n` cycles down to `N - n` for `n` up to `N`; from `N + 1` cycles on its flag is set, it has stopped and
the counter stays at 0xFFFF. A tick leaves everything of the chip but the two timers, their flags and the timer output. -/
def Obligations.Timer2IsOneShot : Prop :=
  ∀ (s : State) (c : ChipRef) (p : Pic) (n : Nat), s.chipAt c = some p →
    ∃ q : Pic, exec (.tick c n) s = .next ((s.setChip c q).returning .none) ∧
      (p.t2Run = false → q.t2c = p.t2c ∧ q.t2Run = false ∧ q.ifr.getLsbD 5 = p.ifr.getLsbD 5) ∧
      (p.t2Run = true →
        (n ≤ p.t2c.toNat →
          q.t2c.toNat = p.t2c.toNat - n ∧ q.t2Run = true ∧ q.ifr.getLsbD 5 = p.ifr.getLsbD 5) ∧
        (p.t2c.toNat < n → q.t2c = 0xFFFF#16 ∧ q.t2Run = false ∧ q.ifr.getLsbD 5 = true)) ∧
      (∀ k, k < 5 → q.ifr.getLsbD k = p.ifr.getLsbD k) ∧
      q = { p with t1c := q.t1c, t1Run := q.t1Run, t2c := q.t2c, t2Run := q.t2Run, ifr := q.ifr, pb7Out := q.pb7Out }

/-- The outputs of a chip and of a drive, which are no state: which port pins are driven and at which level (R191), pin 7 of
port B also by timer 1 where the auxiliary control register says so; and the drive's interrupt line, active exactly when
either chip's output is (R304). -/
def Obligations.PinAndInterruptOutputs : Prop :=
  (∀ (p : Pic) (b : Nat), b < 8 →
    p.paDrive.getLsbD b = p.ddra.getLsbD b ∧ p.paLevel.getLsbD b = p.ora.getLsbD b ∧
    (b < 7 → p.pbDrive.getLsbD b = p.ddrb.getLsbD b ∧ p.pbLevel.getLsbD b = p.orb.getLsbD b) ∧
    (b = 7 → p.pbDrive.getLsbD b = (p.ddrb.getLsbD b || p.acr.getLsbD b) ∧
      p.pbLevel.getLsbD b = if p.acr.getLsbD b then p.pb7Out else p.orb.getLsbD b)) ∧
  ∀ x : Drive, x.irq = true ↔ x.pic1.irq = true ∨ x.pic2.irq = true

/-! ### Resets -/

/-- RESET_PIC (R350): every piece of the chip's state but the pin levels takes its reset value; if the chip is PIC2 of a
drive, the mechanics then see the port value 0x00. -/
def Obligations.ResetPicClearsTheChipAndKeepsItsPins : Prop :=
  ∀ (s : State) (c : ChipRef) (p q : Pic), s.chipAt c = some p →
    q = { ora := 0, orb := 0, ddra := 0, ddrb := 0, ina := p.ina, inb := p.inb, ila := 0, ilb := 0,
          t1c := 0, t1l := 0, t1Run := false, t2c := 0, t2l := 0, t2Run := false, sr := 0, srCnt := 0, acr := 0, pcr := 0,
          ifr := 0, ier := 0, ca1Prev := false, ca2Prev := false, cb1Prev := false, cb2Prev := false, pb7Out := true } →
    (encode (.resetPic c)).opsel = 0b01#2 ++ BitVec.ofBool c.second ++ 0b01110#5 ∧
    (c.second = false → exec (.resetPic c) s = .next ((s.setChip c q).returning .none)) ∧
    ∀ (d : Nat) (x : Drive), c = .pic2 d → s.drives[d]? = some x →
      ∃ y : Drive, SeesPortValue s.cfg 0 { x with pic2 := q } y ∧
        exec (.resetPic c) s = .next ((s.updateDrive d fun _ => y).returning .none)

/-- RESET (R350) leaves every piece of state at its value in the table of R61: each chip, the bus, each drive, the empty
trace; a byte of RAM is the free value of the new power-on, the model's form of "any value" (log 5), and a byte of ROM is
the firmware's. So no interrupt output is active, every line resolves released and no timer counts. -/
def Obligations.ResetGivesEveryPieceOfStateItsTabledValue : Prop :=
  ∀ s : State, ∃ t : State, exec .reset s = .next t ∧ (encode .reset).opsel = 0b10010001#8 ∧
    t.cfg = s.cfg ∧ t.pending = s.pending ∧ t.drives.length = s.drives.length ∧ t.trace = [] ∧ t.bus = ⟨true, true, true, []⟩ ∧
    (let cleared (ina inb : Byte) : Pic :=
      { ora := 0, orb := 0, ddra := 0, ddrb := 0, ina := ina, inb := inb, ila := 0, ilb := 0,
        t1c := 0, t1l := 0, t1Run := false, t2c := 0, t2l := 0, t2Run := false, sr := 0, srCnt := 0, acr := 0, pcr := 0,
        ifr := 0, ier := 0, ca1Prev := false, ca2Prev := false, cb1Prev := false, cb2Prev := false, pb7Out := true }
    t.chip = cleared 0xFF 0xFF ∧
    ∀ (d : Nat) (x : Drive), s.drives[d]? = some x → ∃ (y : Drive) (wired : Byte), t.drives[d]? = some y ∧
      y = { pic1 := cleared 0xFF wired, pic2 := cleared 0x00 0xFF, atnIn := false, clkIn := false, dataIn := false,
            ht := s.cfg.htReset, phase := 0, motor := false, led := false, rotAcc := 0, inSync := false, headByte := 0,
            diskPresent := false, diskId1 := 0, diskId2 := 0, writeProtect := false, tracks := [],
            ram := y.ram, rom := y.rom } ∧
      (s.cfg.bDataIn = 0 ∧ s.cfg.bDataOut = 1 ∧ s.cfg.bClkIn = 2 ∧ s.cfg.bClkOut = 3 ∧ s.cfg.bAtnIn = 7 →
        wired = 0#1 ++ s.cfg.deviceAddrBits ++ 0b11010#5) ∧
      (∀ offset, y.romByte d offset = x.romByte d offset) ∧
      (∀ offset, y.ramByte t.powerOns d offset = Config.powerOnByte (s.powerOns + 1) d offset) ∧
      y.irq = false) ∧
    t.resolve = ⟨true, true, true⟩

/-! ### The serial bus -/

/-- HOST_SET (R200) stores the host's three contributions and pushes nothing; DRV_GET_CLK_OUT and DRV_GET_DATA_OUT (R201)
return the drive's contribution, asserted (false) exactly when the pin is an output holding 1, and change nothing. -/
def Obligations.ContributionsOfHostAndDrives : Prop :=
  ∀ s : State,
    (∀ a k l : Bool, (encode (.hostSet a k l)).opsel = 0b10000000#8 ∧
      exec (.hostSet a k l) s =
        .next { s with bus := ⟨a, k, l, s.bus.attached⟩, result := .none }) ∧
    ∀ (d : Nat) (x : Drive), s.drives[d]? = some x →
      (encode (.drvGetClkOut d)).opsel = 0b10000110#8 ∧ (encode (.drvGetDataOut d)).opsel = 0b10000111#8 ∧
      ∃ k l : Bool,
        exec (.drvGetClkOut d) s = .next (s.returning (.level k)) ∧
        (k = false ↔ x.pic1.orb.getLsbD s.cfg.bClkOut = true ∧ x.pic1.ddrb.getLsbD s.cfg.bClkOut = true) ∧
        exec (.drvGetDataOut d) s = .next (s.returning (.level l)) ∧
        (l = false ↔ x.pic1.orb.getLsbD s.cfg.bDataOut = true ∧ x.pic1.ddrb.getLsbD s.cfg.bDataOut = true)

/-- The open-collector lines (R202) as the host reads them (R207): BUS_GET_HOST_INPUT returns CLK and DATA, each released
exactly when the host and every attached drive release it, and changes nothing; ATN is the host's alone. -/
def Obligations.LinesAreReleasedWhenEveryDeviceReleasesThem : Prop :=
  ∀ s : State, (encode .busGetHostInput).opsel = 0b10000010#8 ∧ s.resolve.atn = s.bus.hostAtn ∧
    ∃ k l : Bool, exec .busGetHostInput s = .next (s.returning (.lines k l)) ∧ s.resolve.clk = k ∧ s.resolve.data = l ∧
      (k = true ↔ s.bus.hostClk = true ∧ ∀ d ∈ s.bus.attached, ∀ x, s.drives[d]? = some x →
        ¬ (x.pic1.orb.getLsbD s.cfg.bClkOut = true ∧ x.pic1.ddrb.getLsbD s.cfg.bClkOut = true)) ∧
      (l = true ↔ s.bus.hostData = true ∧ ∀ d ∈ s.bus.attached, ∀ x, s.drives[d]? = some x →
        ¬ (x.pic1.orb.getLsbD s.cfg.bDataOut = true ∧ x.pic1.ddrb.getLsbD s.cfg.bDataOut = true))

/-- DRV_SET_ATN_IN (R204), DRV_SET_CLK_IN (R205) and DRV_SET_DATA_IN (R206): the inverse of the line is cached and shown on
its port B pin of PIC1; ATN is also reported to CA1 of PIC1 (R180), CLK and DATA to no control line. -/
def Obligations.LineInputsAreCachedShownAndAtnReachesCa1 : Prop :=
  ∀ (s : State) (d : Nat) (x : Drive) (l : Bool), s.drives[d]? = some x →
    (encode (.drvSetAtnIn d l)).opsel = 0b10001000#8 ∧ (encode (.drvSetClkIn d l)).opsel = 0b10001001#8 ∧
    (encode (.drvSetDataIn d l)).opsel = 0b10001010#8 ∧
    ∃ (wa wk wl la : Byte) (f : Flags),
      (∀ b, b < 8 → wa.getLsbD b = if b = s.cfg.bAtnIn then !l else x.pic1.inb.getLsbD b) ∧
      (∀ b, b < 8 → wk.getLsbD b = if b = s.cfg.bClkIn then !l else x.pic1.inb.getLsbD b) ∧
      (∀ b, b < 8 → wl.getLsbD b = if b = s.cfg.bDataIn then !l else x.pic1.inb.getLsbD b) ∧
      flagSetWhen (isActiveEdge (x.pic1.pcr.getLsbD 0) x.pic1.ca1Prev (!l)) 1 x.pic1.ifr f ∧
      (isActiveEdge (x.pic1.pcr.getLsbD 0) x.pic1.ca1Prev (!l) ∧ x.pic1.acr.getLsbD 0 = true → la = x.pic1.ina) ∧
      (¬ (isActiveEdge (x.pic1.pcr.getLsbD 0) x.pic1.ca1Prev (!l) ∧ x.pic1.acr.getLsbD 0 = true) →
        la = x.pic1.ila) ∧
      exec (.drvSetAtnIn d l) s = .next ((s.updateDrive d fun _ => { x with
        atnIn := !l, pic1 := { x.pic1 with inb := wa, ca1Prev := !l, ifr := f, ila := la } }).returning .none) ∧
      exec (.drvSetClkIn d l) s = .next ((s.updateDrive d fun _ => { x with
        clkIn := !l, pic1 := { x.pic1 with inb := wk } }).returning .none) ∧
      exec (.drvSetDataIn d l) s = .next ((s.updateDrive d fun _ => { x with
        dataIn := !l, pic1 := { x.pic1 with inb := wl } }).returning .none)

/-- BUS_UPDATE (R203): the lines are resolved once, and then each attached drive in ascending order is given ATN, CLK and
DATA. A second BUS_UPDATE with nothing in between changes nothing. -/
def Obligations.BusUpdatePushesTheResolvedLinesOnce : Prop :=
  ∀ s : State, (∀ d ∈ s.bus.attached, d < s.drives.length) → (encode .busUpdate).opsel = 0b10000001#8 ∧
    ∃ t u : State,
      runAll (s.bus.attached.flatMap fun d => [.drvSetAtnIn d s.resolve.atn, .drvSetClkIn d s.resolve.clk,
        .drvSetDataIn d s.resolve.data]) s = .next t ∧
      exec .busUpdate s = .next u ∧ u = t.returning .none ∧ exec .busUpdate u = .next u

/-- BUS_ATTACH (R208) and BUS_DETACH (R209): exactly drive `d` joins or leaves the attached drives, which stay in ascending
order, and nothing else changes: nothing is pushed. -/
def Obligations.AttachAndDetachChangeOnlyTheAttachedDrives : Prop :=
  ∀ (s : State) (d : Nat), d < s.drives.length →
    (encode (.busAttach d)).opsel = 0b10000100#8 ∧ (encode (.busDetach d)).opsel = 0b10000101#8 ∧
    ∃ a b : List Nat,
      exec (.busAttach d) s = .next { s with bus := { s.bus with attached := a }, result := .none } ∧
      (∀ e, e ∈ a ↔ e = d ∨ e ∈ s.bus.attached) ∧
      (d ∈ s.bus.attached → s.bus.attached.Pairwise (· < ·) → a = s.bus.attached) ∧
      exec (.busDetach d) s = .next { s with bus := { s.bus with attached := b }, result := .none } ∧
      (∀ e, e ∈ b ↔ e ≠ d ∧ e ∈ s.bus.attached) ∧
      (s.bus.attached.Pairwise (· < ·) → a.Pairwise (· < ·) ∧ b.Pairwise (· < ·))

/-- A detached drive does not reach the bus (R209, R369): after BUS_DETACH of drive `d`, whatever that drive holds, the
host reads the same lines and every other drive is given the same lines. -/
def Obligations.DetachedDriveHasNoInfluenceOnTheBus : Prop :=
  ∀ (s : State) (d : Nat) (y : Drive), d < s.drives.length →
    ∃ t k l, exec (.busDetach d) s = .next t ∧
      exec .busGetHostInput t = .next (t.returning (.lines k l)) ∧
      exec .busGetHostInput (t.updateDrive d fun _ => y) =
        .next ((t.updateDrive d fun _ => y).returning (.lines k l)) ∧
      ∃ u v, exec .busUpdate t = .next u ∧ exec .busUpdate (t.updateDrive d fun _ => y) = .next v ∧
        (∀ e, e ≠ d → v.drives[e]? = u.drives[e]?) ∧ v.drives[d]? = some y ∧ u.drives[d]? = t.drives[d]?

/-- BUS_TICK (R210): DRV_TICK on each attached drive, in ascending order; the lines are neither resolved nor pushed. -/
def Obligations.BusTickTicksEveryAttachedDriveInOrder : Prop :=
  ∀ (s : State) (n : Nat), (∀ d ∈ s.bus.attached, d < s.drives.length) →
    (encode (.busTick n)).opsel = 0b10000011#8 ∧
    ∃ t : State, runAll (s.bus.attached.map fun d => .drvTick d n) s = .next t ∧
      exec (.busTick n) s = .next (t.returning .none)

/-! ### The group codec and the frames -/

/-- GCR_ENC_GROUP (R232): the eight nibbles, high nibble first, are coded and their codes, first code most significant, are
sliced into five bytes. It is total, and injective for a table of sixteen distinct codes. -/
def Obligations.EncodedGroupSpellsTheCodesOfItsNibbles : Prop :=
  ∀ (s : State) (b0 b1 b2 b3 : Byte), (encode (.gcrEncGroup b0 b1 b2 b3)).opsel = 0b11000000#8 ∧
    ∃ g : List Byte, exec (.gcrEncGroup b0 b1 b2 b3) s = .next (s.returning (.bytes g)) ∧ g.length = 5 ∧
      bytesNumber g = codesNumber ((nibblesOf [b0, b1, b2, b3]).map fun n => s.cfg.gcrTable.getD n 0) ∧
      (s.cfg.gcrTable.length = 16 → s.cfg.gcrTable.Nodup → ∀ a0 a1 a2 a3 : Byte,
        exec (.gcrEncGroup a0 a1 a2 a3) s = .next (s.returning (.bytes g)) → [a0, a1, a2, a3] = [b0, b1, b2, b3])

/-- GCR_DEC_GROUP (R233), for a table of sixteen distinct codes: each five-bit code of the 40-bit field gives the nibble at
which the table holds it, and nibble 0 where the table does not hold it; the error flag says whether some code is not in
the table, and exactly then one GcrDiag is emitted. -/
def Obligations.DecodedGroupInvertsTheTableAndFlagsInvalidCodes : Prop :=
  ∀ (s : State) (g0 g1 g2 g3 g4 : Byte), s.cfg.gcrTable.length = 16 → s.cfg.gcrTable.Nodup →
    (encode (.gcrDecGroup g0 g1 g2 g3 g4)).opsel = 0b11000001#8 ∧
    ∃ (bs : List Byte) (err : Bool) (codes : List (BitVec 5)),
      exec (.gcrDecGroup g0 g1 g2 g3 g4) s =
        .next ((s.emit (if err then [.gcrDiag] else [])).returning (.group bs err)) ∧
      bs.length = 4 ∧ codes.length = 8 ∧ codesNumber codes = bytesNumber [g0, g1, g2, g3, g4] ∧
      (err = true ↔ ∃ e ∈ codes, e ∉ s.cfg.gcrTable) ∧
      ∀ k, k < 8 → ∀ (e : BitVec 5) (n : Nat), codes[k]? = some e → (nibblesOf bs)[k]? = some n →
        (e ∈ s.cfg.gcrTable → s.cfg.gcrTable[n]? = some e) ∧ (e ∉ s.cfg.gcrTable → n = 0)

/-- GCR_ENC_HEADER (R235): the frame is the header record coded as two groups. GCR_ENC_DATA (R237): the frame is the data
record, marker, payload, the payload's exclusive or and two zero bytes, coded as 65 groups. -/
def Obligations.EncodedFramesAreTheirRecordsInGroups : Prop :=
  ∀ s : State,
    (∀ t n id1 id2 : Byte, (encode (.gcrEncHeader t n id1 id2)).opsel = 0b11000010#8 ∧
      ∃ a b : List Byte,
        exec (.gcrEncGroup s.cfg.headerMarker (t ^^^ n ^^^ id1 ^^^ id2) n t) s = .next (s.returning (.bytes a)) ∧
        exec (.gcrEncGroup id2 id1 s.cfg.headerPad s.cfg.headerPad) s = .next (s.returning (.bytes b)) ∧
        exec (.gcrEncHeader t n id1 id2) s = .next (s.returning (.bytes (a ++ b))) ∧ (a ++ b).length = 10) ∧
    ∀ payload : List Byte, payload.length = 256 → (encode (.gcrEncData payload)).opsel = 0b11000100#8 ∧
      ∃ frame : List Byte, exec (.gcrEncData payload) s = .next (s.returning (.bytes frame)) ∧ frame.length = 325 ∧
        ∀ k, k < 65 → ∀ r0 r1 r2 r3 : Byte,
          ([s.cfg.dataMarker] ++ payload ++ [payload.foldl (· ^^^ ·) 0, 0, 0]).extract (4 * k) (4 * k + 4) =
            [r0, r1, r2, r3] →
          exec (.gcrEncGroup r0 r1 r2 r3) s = .next (s.returning (.bytes (frame.extract (5 * k) (5 * k + 5))))

/-- GCR_DEC_HEADER (R236) and GCR_DEC_DATA (R238): the record is the frame's groups decoded; the fields, or the payload, are
returned whatever the validity, which is marker and checksum only; the error flag says whether some group has an invalid
code, and an event is emitted exactly then. -/
def Obligations.DecodedFramesReportValidityBesideTheirFields : Prop :=
  ∀ s : State,
    (∀ g0 g1 g2 g3 g4 g5 g6 g7 g8 g9 : Byte,
      (encode (.gcrDecHeader [g0, g1, g2, g3, g4, g5, g6, g7, g8, g9])).opsel = 0b11000011#8 ∧
      ∃ (r0 r1 r2 r3 r4 r5 r6 r7 : Byte) (e1 e2 : Bool) (u1 u2 : State) (n : Nat),
        exec (.gcrDecGroup g0 g1 g2 g3 g4) s = .next (u1.returning (.group [r0, r1, r2, r3] e1)) ∧
        exec (.gcrDecGroup g5 g6 g7 g8 g9) s = .next (u2.returning (.group [r4, r5, r6, r7] e2)) ∧
        exec (.gcrDecHeader [g0, g1, g2, g3, g4, g5, g6, g7, g8, g9]) s =
          .next ((s.emit (List.replicate n .gcrDiag)).returning (.header r3 r2 r5 r4
            (decide (r0 = s.cfg.headerMarker ∧ r1 = r2 ^^^ r3 ^^^ r4 ^^^ r5)) (e1 || e2))) ∧
        (n = 0 ↔ (e1 || e2) = false)) ∧
    ∀ frame : List Byte, frame.length = 325 → (encode (.gcrDecData frame)).opsel = 0b11000101#8 ∧
      ∃ (record : List Byte) (err : Nat → Bool) (any : Bool) (n : Nat), record.length = 260 ∧
        (∀ k, k < 65 → ∀ g0 g1 g2 g3 g4 : Byte, frame.extract (5 * k) (5 * k + 5) = [g0, g1, g2, g3, g4] →
          ∃ u : State, exec (.gcrDecGroup g0 g1 g2 g3 g4) s =
            .next (u.returning (.group (record.extract (4 * k) (4 * k + 4)) (err k)))) ∧
        (any = true ↔ ∃ k, k < 65 ∧ err k = true) ∧ (n = 0 ↔ any = false) ∧
        exec (.gcrDecData frame) s = .next ((s.emit (List.replicate n .gcrDiag)).returning
          (.data (record.extract 1 257) (decide (record[0]? = some s.cfg.dataMarker ∧
            record[257]? = some ((record.extract 1 257).foldl (· ^^^ ·) 0))) any))

/-- The codec's round trips (R234, R240 a and b): for every four bytes, for every track, sector and identifier, and for
every 256-byte payload, the decode of the encode gives them back, valid, with no error flag and no event; and no code of the
table has three consecutive zero bits. -/
def Obligations.DecodeOfEncodedGroupsAndFramesGivesThemBack : Prop :=
  ∀ s : State, ConfigOk s.cfg →
    (∀ e ∈ s.cfg.gcrTable, ∀ i, i < 3 → ¬ (e.getLsbD i = false ∧ e.getLsbD (i + 1) = false ∧
      e.getLsbD (i + 2) = false)) ∧
    (∀ b0 b1 b2 b3 : Byte, ∃ g0 g1 g2 g3 g4 : Byte,
      exec (.gcrEncGroup b0 b1 b2 b3) s = .next (s.returning (.bytes [g0, g1, g2, g3, g4])) ∧
      exec (.gcrDecGroup g0 g1 g2 g3 g4) s = .next (s.returning (.group [b0, b1, b2, b3] false))) ∧
    (∀ t n id1 id2 : Byte, ∃ frame : List Byte,
      exec (.gcrEncHeader t n id1 id2) s = .next (s.returning (.bytes frame)) ∧
      exec (.gcrDecHeader frame) s = .next (s.returning (.header t n id1 id2 true false))) ∧
    ∀ payload : List Byte, payload.length = 256 → ∃ frame : List Byte,
      exec (.gcrEncData payload) s = .next (s.returning (.bytes frame)) ∧
      exec (.gcrDecData frame) s = .next (s.returning (.data payload true false))

/-- With the code table of R231 no encoded frame holds two sync bytes in a row (R239). -/
def Obligations.EncodedFramesHoldNoSyncMark : Prop :=
  ∀ (s : State) (i : Instr) (frame : List Byte) (k : Nat), s.cfg.gcrTable = Config.default.gcrTable →
    (∃ t n id1 id2, i = .gcrEncHeader t n id1 id2) ∨ (∃ payload, i = .gcrEncData payload) →
    exec i s = .next (s.returning (.bytes frame)) →
    ¬ (frame[k]? = some 0xFF#8 ∧ frame[k + 1]? = some 0xFF#8)

/-! ### Track buffers -/

/-- TRK_READ_BYTE (R261), TRK_WRITE_BYTE (R262) and TRK_IS_SYNC (R263): the byte at the cursor is returned or replaced and
the cursor advances by one, from the last byte to 0; the test changes nothing. Every other byte of the buffer, every other
buffer and everything else of the block is as before. -/
def Obligations.TrackAccessesUseTheCursorAndWrap : Prop :=
  ∀ (s : State) (d t : Nat) (x : Drive) (b : Track) (v w : Byte), s.drives[d]? = some x → x.diskPresent = true →
    1 ≤ t → t ≤ s.cfg.numTracks → x.tracks[t - 1]? = some b → b.buf[b.cursor]? = some w →
    (encode (.trkReadByte d t)).opsel = 0b11000110#8 ∧ (encode (.trkWriteByte d t v)).opsel = 0b11000111#8 ∧
    (encode (.trkIsSync d t)).opsel = 0b11001000#8 ∧
    ∃ cursor : Nat, (b.cursor + 1 = b.buf.length → cursor = 0) ∧ (b.cursor + 1 ≠ b.buf.length → cursor = b.cursor + 1) ∧
      exec (.trkReadByte d t) s = .next ((s.updateDrive d fun _ =>
        { x with tracks := x.tracks.set (t - 1) ⟨b.buf, cursor⟩ }).returning (.byte w)) ∧
      exec (.trkWriteByte d t v) s = .next ((s.updateDrive d fun _ =>
        { x with tracks := x.tracks.set (t - 1) ⟨b.buf.set b.cursor v, cursor⟩ }).returning .none) ∧
      exec (.trkIsSync d t) s = .next (s.returning (.level (decide (w = 0xFF#8))))

/-- The span of one sector (R267): a sync run, the header frame, the gap, a sync run, the data frame, the tail gap; with
admissible run lengths it is 372 bytes long. -/
def Obligations.SectorSpanIsLaidOutAsSyncHeaderGapSyncDataGap : Prop :=
  ∀ (s : State) (t n : Nat) (image : Image) (id1 id2 : Byte), Image.wellFormed image = true →
    ∃ header data : List Byte,
      exec (.gcrEncHeader (byteOf t) (byteOf n) id1 id2) s = .next (s.returning (.bytes header)) ∧
      exec (.gcrEncData (Image.bytesAt image t n)) s = .next (s.returning (.bytes data)) ∧
      sectorSpan s.cfg t n image id1 id2 = List.replicate s.cfg.syncLen 0xFF#8 ++ header ++
        List.replicate s.cfg.headerGapLen s.cfg.gapByte ++ List.replicate s.cfg.syncLen 0xFF#8 ++ data ++
        List.replicate s.cfg.tailGapLen s.cfg.gapByte ∧
      (ConfigOk s.cfg → (sectorSpan s.cfg t n image id1 id2).length = 372)

/-- TRK_BUILD (R264) on a drive with a disk: the spans of the track's sectors in ascending order, padded with gap bytes to
the track's size or truncated to it, a truncation being the one case that emits an event; the cursor is 0. With admissible
parameters nothing is truncated. Everything else of the block is as before. That it takes a disk, and how an image is held,
are the model's choices (log 11, log 13). -/
def Obligations.TrackBuildLaysOutItsSectorsAndPads : Prop :=
  ∀ (s : State) (d t : Nat) (x : Drive) (b : Track) (image : Image) (id1 id2 : Byte), s.drives[d]? = some x →
    x.diskPresent = true → 1 ≤ t → t ≤ s.cfg.numTracks → x.tracks[t - 1]? = some b → Image.wellFormed image = true →
    (encode (.trkBuild d t image id1 id2)).opsel = 0b11001001#8 ∧
    ∃ (out buf : List Byte) (events : List Event),
      out = (List.range (s.cfg.sectors.getD (t - 1) 0)).flatMap (fun n => sectorSpan s.cfg t n image id1 id2) ∧
      (let size := s.cfg.trackSize.getD (s.cfg.zones.getD (t - 1) 0) 0
      buf.length = size ∧
      (out.length ≤ size → buf = out ++ List.replicate (size - out.length) s.cfg.gapByte ∧ events = []) ∧
      (size < out.length → buf = out.take size ∧ events = [.trackOverflowDiag]) ∧
      (ConfigOk s.cfg → out.length ≤ size)) ∧
      exec (.trkBuild d t image id1 id2) s = .next (((s.updateDrive d fun _ =>
        { x with tracks := x.tracks.set (t - 1) ⟨buf, 0⟩ }).emit events).returning .none)

/-- TRK_UPDATE_SECTOR (R266), with admissible parameters and a buffer of its track's size: the 372 bytes from `sector * 372`
become the sector's span, every other byte and the cursor are as before, and so is everything else of the block. -/
def Obligations.SectorUpdateRewritesItsSpanInPlace : Prop :=
  ∀ (s : State) (d t n : Nat) (x : Drive) (b : Track) (image : Image) (id1 id2 : Byte), ConfigOk s.cfg →
    s.drives[d]? = some x → x.diskPresent = true → 1 ≤ t → t ≤ s.cfg.numTracks → x.tracks[t - 1]? = some b →
    b.buf.length = trackSizeOf s.cfg t → n < sectorsOf s.cfg t → Image.wellFormed image = true →
    (encode (.trkUpdateSector d t image n id1 id2)).opsel = 0b11001010#8 ∧
    ∃ buf : List Byte, buf.length = b.buf.length ∧
      (∀ k, k < 372 → buf[n * 372 + k]? = (sectorSpan s.cfg t n image id1 id2)[k]?) ∧
      (∀ k, k < n * 372 ∨ n * 372 + 372 ≤ k → buf[k]? = b.buf[k]?) ∧
      exec (.trkUpdateSector d t image n id1 id2) s = .next ((s.updateDrive d fun _ =>
        { x with tracks := x.tracks.set (t - 1) ⟨buf, b.cursor⟩ }).returning .none)

/-- A built track decodes back to the image (R268): after TRK_BUILD, with admissible parameters, the header frame and the
data frame of every sector of the track decode to the sector's own track, number, identifier and bytes, both valid and
error-free. -/
def Obligations.BuiltTrackDecodesBackToTheImage : Prop :=
  ∀ (s : State) (d t n : Nat) (x : Drive) (b : Track) (image : Image) (id1 id2 : Byte), ConfigOk s.cfg →
    s.drives[d]? = some x → x.diskPresent = true → 1 ≤ t → t ≤ s.cfg.numTracks → x.tracks[t - 1]? = some b →
    Image.wellFormed image = true → n < sectorsOf s.cfg t →
    ∃ (u : State) (y : Drive) (built : Track),
      exec (.trkBuild d t image id1 id2) s = .next u ∧ u.drives[d]? = some y ∧ y.tracks[t - 1]? = some built ∧
      (let header := 372 * n + s.cfg.syncLen
      exec (.gcrDecHeader (built.buf.extract header (header + 10))) u =
        .next (u.returning (.header (byteOf t) (byteOf n) id1 id2 true false))) ∧
      (let data := 372 * n + 2 * s.cfg.syncLen + 10 + s.cfg.headerGapLen
      exec (.gcrDecData (built.buf.extract data (data + 325))) u =
        .next (u.returning (.data (Image.bytesAt image t n) true false)))

/-! ### Rotation and the sync detector -/

/-- ConsumeByte (R271) and Signal (R272): the byte at the cursor is consumed and shown on PIC2's port A; it lies in a sync
run when it is a sync byte and either the drive was in sync or the next byte is a sync byte too, and it is signalled exactly
when it does not. The sync status bit shows the new mode; a signal leaves CA1 of PIC2 high, sets `F_CA1` unless it is the
first one after reset under the negative polarity, and with latching enabled latches the new byte. -/
def Obligations.ConsumedByteIsSignalledUnlessInASyncRun : Prop :=
  ∀ (cfg : Config) (t : Nat) (x : Drive) (b : Track) (v w : Byte), x.tracks[t - 1]? = some b →
    b.buf[b.cursor]? = some v → b.buf[(b.cursor + 1) % b.buf.length]? = some w →
    ∃ (run signalled : Bool) (f : Flags) (latch pins : Byte),
      run = decide (v = 0xFF#8 ∧ (x.inSync = true ∨ w = 0xFF#8)) ∧ signalled = !run ∧
      flagSetWhen (signalled = true ∧ (x.pic2.pcr.getLsbD 0 = true ∨ x.pic2.ca1Prev = true)) 1 x.pic2.ifr f ∧
      (signalled = true ∧ x.pic2.acr.getLsbD 0 = true ∧
        (x.pic2.pcr.getLsbD 0 = true ∨ x.pic2.ca1Prev = true) → latch = v) ∧
      (¬ (signalled = true ∧ x.pic2.acr.getLsbD 0 = true ∧
        (x.pic2.pcr.getLsbD 0 = true ∨ x.pic2.ca1Prev = true)) → latch = x.pic2.ila) ∧
      (∀ k, k < 8 → pins.getLsbD k = if k = cfg.mSync then !run else x.pic2.inb.getLsbD k) ∧
      x.consumeByte cfg t =
        ({ x with
            tracks := x.tracks.set (t - 1) ⟨b.buf, (b.cursor + 1) % b.buf.length⟩, headByte := v, inSync := run,
            pic2 := { x.pic2 with ina := v, inb := pins, ifr := f, ila := latch,
                                  ca1Prev := x.pic2.ca1Prev || signalled } }, signalled)

/-- Runs of sync bytes (R274): from outside a sync run, `k` sync bytes followed by another byte, round the end of the buffer
too, give: for `k` = 0 one signal for that byte, for `k` = 1 a signal for each of the two, for `k` of 2 or more no signal for
the run and one for the byte after it. -/
def Obligations.OnlyRunsOfTwoOrMoreSyncBytesAreSuppressed : Prop :=
  ∀ (cfg : Config) (t k : Nat) (x : Drive) (b : Track) (v : Byte), x.tracks[t - 1]? = some b → x.inSync = false →
    b.cursor < b.buf.length → (∀ i, i < k → b.buf[(b.cursor + i) % b.buf.length]? = some 0xFF#8) →
    b.buf[(b.cursor + k) % b.buf.length]? = some v → v ≠ 0xFF#8 →
    (consumeMany cfg t (k + 1) x).2 = (if k = 1 then [true, true] else List.replicate k false ++ [true]) ∧
    (consumeMany cfg t (k + 1) x).1.inSync = false

/-- DRV_TICK (R302): `n` cycles of PIC1, `n` cycles of PIC2, then the rotation (R270). No cycle changes nothing, whatever the
accumulator holds. With no disk, or with the motor off where it gates the rotation, the rotation changes nothing;
else it consumes one byte of the track under the head (R273) for every whole per-byte cost in the accumulated cycles, keeps
the remainder, and emits one event for every byte signalled. -/
def Obligations.DriveTickRunsTimersThenRotation : Prop :=
  ∀ (s : State) (d n : Nat) (x y : Drive), s.drives[d]? = some x →
    y = { x with
      pic1 := (fun q : Pic => (q.t1Cycle s.cfg).t2Cycle)^[n] x.pic1
      pic2 := (fun q : Pic => (q.t1Cycle s.cfg).t2Cycle)^[n] x.pic2 } →
    (encode (.drvTick d n)).opsel = 0b10001011#8 ∧
    (n = 0 → exec (.drvTick d n) s = .next (s.returning .none)) ∧
    ((x.diskPresent = false ∨ (s.cfg.motorGatesRotation = true ∧ x.motor = false)) →
      exec (.drvTick d n) s = .next ((s.updateDrive d fun _ => y).returning .none)) ∧
    (0 < n → x.diskPresent = true → (s.cfg.motorGatesRotation = true → x.motor = true) →
      ∀ cost : Nat, cost = s.cfg.byteCycles.getD (s.cfg.zones.getD (x.ht / 2) 0) 0 → 0 < cost →
        ∃ (z : Drive) (signals : List Bool),
          consumeMany s.cfg (1 + x.ht / 2) ((x.rotAcc + n) / cost) { y with rotAcc := (x.rotAcc + n) % cost } =
            (z, signals) ∧
          exec (.drvTick d n) s = .next (((s.updateDrive d fun _ => z).emit
            (List.replicate (signals.count true) (.setOverflow d))).returning .none))

/-- Splitting a drive tick (R270: "the remainder is kept"; R170): DRV_TICK of `a` cycles and then of `b` cycles leaves the
same state, with the same events in the same order, as one DRV_TICK of `a + b` cycles. -/
def Obligations.DriveTicksAddUp : Prop :=
  ∀ (s : State) (d a b : Nat) (x : Drive), s.drives[d]? = some x → 0 < costOf s.cfg (headTrack x) →
    ∃ t u : State, exec (.drvTick d a) s = .next t ∧ exec (.drvTick d b) t = .next u ∧
      exec (.drvTick d (a + b)) s = .next u

/-! ### Mechanics, the address map and disks -/

/-- MECH_WRITE issued by the environment: with any other value than the one that PIC2's port B presents it is refused (U11);
with that value it is executed, as log 9 infers: the mechanics see it, and nothing but the head position, the phase, the
motor and the LED changes (R290, R291); a second time it changes nothing. What the mechanics do with an arbitrary value is
said of the writes of port B. -/
def Obligations.MechWriteStepsTheHeadAndSetsMotorAndLed : Prop :=
  ∀ (s : State) (d : Nat) (x : Drive) (v : Byte), s.drives[d]? = some x → x.ht ≤ 2 * (s.cfg.numTracks - 1) →
    (encode (.mechWrite d v)).opsel = 0b10010010#8 ∧
    (v = x.pic2.orb &&& x.pic2.ddrb →
      ∃ (y : Drive) (t : State), SeesPortValue s.cfg v x y ∧ y.ht ≤ 2 * (s.cfg.numTracks - 1) ∧
        t = (s.updateDrive d fun _ => y).returning .none ∧ exec (.mechWrite d v) s = .next t ∧
        exec (.mechWrite d v) t = .next t) ∧
    (v ≠ x.pic2.orb &&& x.pic2.ddrb → exec (.mechWrite d v) s = .refused .mechPortValue)

/-- "No other operation changes `ht`, `phase`, `motor` or `led`, other than reset" (R303): only the writes of port B and its
direction register of the drive's own PIC2, by register or through a PIC2 window, its RESET_PIC, MECH_WRITE and RESET. -/
def Obligations.OnlyPortWritesAndResetsMoveTheMechanics : Prop :=
  ∀ (i : Instr) (s t : State) (d : Nat) (x y : Drive), exec i s = .next t → s.drives[d]? = some x →
    t.drives[d]? = some y →
    (x.ht ≠ y.ht ∨ x.phase ≠ y.phase ∨ x.motor ≠ y.motor ∨ x.led ≠ y.led) →
    i = .reset ∨ i = .resetPic (.pic2 d) ∨ (∃ v, i = .mechWrite d v) ∨ (∃ v, i = .wrOrb (.pic2 d) v) ∨
      (∃ v, i = .wrDdrb (.pic2 d) v) ∨
      ∃ a v, i = .drvMemwr d a v ∧ (targetOf s.cfg a = .pic2 0 ∨ targetOf s.cfg a = .pic2 2)

/-- DRV_MEMRD (R300): a read of RAM or ROM returns the cell and changes nothing; a read in a chip's window is the read of the
register that the low four address bits select, with every side effect; elsewhere the byte is 0xFF and nothing changes. The
address is the operand's low ADDR_W bits. -/
def Obligations.MemoryReadsFollowTheAddressMap : Prop :=
  ∀ (s : State) (d : Nat) (x : Drive) (addr : Nat), s.drives[d]? = some x →
    (encode (.drvMemrd d addr)).opsel = 0b10001100#8 ∧
    (let a := addr % 2 ^ s.cfg.addrW
    if s.cfg.ramBase ≤ a ∧ a < s.cfg.ramBase + s.cfg.ramSize then
      exec (.drvMemrd d addr) s = .next (s.returning (.byte (x.ramByte s.powerOns d (a - s.cfg.ramBase))))
    else if s.cfg.pic1Base ≤ a ∧ a < s.cfg.pic1Base + 1024 then
      exec (.drvMemrd d addr) s = exec (readInstr (a % 16) (.pic1 d)) s
    else if s.cfg.pic2Base ≤ a ∧ a < s.cfg.pic2Base + 1024 then
      exec (.drvMemrd d addr) s = exec (readInstr (a % 16) (.pic2 d)) s
    else if s.cfg.romBase ≤ a ∧ a < s.cfg.romBase + s.cfg.romSize then
      exec (.drvMemrd d addr) s = .next (s.returning (.byte (x.romByte d (a - s.cfg.romBase))))
    else exec (.drvMemrd d addr) s = .next (s.returning (.byte 0xFF#8)))

/-- DRV_MEMWR (R301): a write to RAM stores the byte in its cell and changes no other byte of RAM and nothing else; a write
in a chip's window is the write of the register that the low four address bits select, on PIC2 with the mechanics' hook; a
write to ROM or where nothing is mapped changes nothing. The address is the operand's low ADDR_W bits. -/
def Obligations.MemoryWritesFollowTheAddressMap : Prop :=
  ∀ (s : State) (d : Nat) (x : Drive) (addr : Nat) (v : Byte), s.drives[d]? = some x →
    (encode (.drvMemwr d addr v)).opsel = 0b10001101#8 ∧
    (let a := addr % 2 ^ s.cfg.addrW
    if s.cfg.ramBase ≤ a ∧ a < s.cfg.ramBase + s.cfg.ramSize then
      ∃ m : Memory,
        exec (.drvMemwr d addr v) s = .next ((s.updateDrive d fun _ => { x with ram := m }).returning .none) ∧
        ∀ offset, ({ x with ram := m } : Drive).ramByte s.powerOns d offset =
          if offset = a - s.cfg.ramBase then v else x.ramByte s.powerOns d offset
    else if s.cfg.pic1Base ≤ a ∧ a < s.cfg.pic1Base + 1024 then
      exec (.drvMemwr d addr v) s = exec (writeInstr (a % 16) (.pic1 d) v) s
    else if s.cfg.pic2Base ≤ a ∧ a < s.cfg.pic2Base + 1024 then
      exec (.drvMemwr d addr v) s = exec (writeInstr (a % 16) (.pic2 d) v) s
    else exec (.drvMemwr d addr v) s = .next (s.returning .none))

/-- DRV_EJECT drops the disk, its buffers, the sync mode and the accumulator, and shows no sync; DRV_INSERT ejects a disk
that is in, then stores the identifier and builds every track in ascending order, each with its event if it is truncated
(R295, R264). DRV_SET_WP (R296) stores the sense and shows its inverse. The rest of the drive and of the block is as
before. -/
def Obligations.InsertEjectAndWriteProtect : Prop :=
  ∀ (s : State) (d : Nat) (x : Drive), s.drives[d]? = some x →
    (encode (.drvEject d)).opsel = 0b10001111#8 ∧
    ∃ (pins : Byte) (out : Drive),
      (∀ k, k < 8 → pins.getLsbD k = if k = s.cfg.mSync then true else x.pic2.inb.getLsbD k) ∧
      out = { x with diskPresent := false, tracks := [], inSync := false, rotAcc := 0,
                     pic2 := { x.pic2 with inb := pins } } ∧
      exec (.drvEject d) s = .next ((s.updateDrive d fun _ => out).returning .none) ∧
      (∀ (image : Image) (id1 id2 : Byte), Image.wellFormed image = true →
        (encode (.drvInsert d image id1 id2)).opsel = 0b10001110#8 ∧
        ∃ (tracks : List Track) (events : List Event), tracks.length = s.cfg.numTracks ∧
          (∀ t, 1 ≤ t → t ≤ s.cfg.numTracks → tracks[t - 1]? = some (buildTrack s.cfg t image id1 id2)) ∧
          events = (List.range s.cfg.numTracks).flatMap (fun k => buildEvents s.cfg (k + 1) image id1 id2) ∧
          exec (.drvInsert d image id1 id2) s = .next (((s.updateDrive d fun _ =>
            { (if x.diskPresent then out else x) with
              diskPresent := true, diskId1 := id1, diskId2 := id2, tracks := tracks }).emit events).returning .none)) ∧
      ∀ protect : Bool, (encode (.drvSetWp d protect)).opsel = 0b10010000#8 ∧
        ∃ w : Byte, (∀ k, k < 8 → w.getLsbD k = if k = s.cfg.mWps then !protect else x.pic2.inb.getLsbD k) ∧
          exec (.drvSetWp d protect) s = .next ((s.updateDrive d fun _ =>
            { x with writeProtect := protect, pic2 := { x.pic2 with inb := w } }).returning .none)

/-! ### The whole machine -/

/-- A flag becomes 1 only by an event (R62 a): no operation but a tick, a control-line report, DRV_SET_ATN_IN and BUS_UPDATE
sets a flag of any chip, and no operation at all sets `F_SR` (R30). -/
def Obligations.FlagsBecomeSetOnlyByTicksAndLineEdges : Prop :=
  ∀ (i : Instr) (s t : State) (c : ChipRef) (p q : Pic) (k : Nat), exec i s = .next t → s.chipAt c = some p →
    t.chipAt c = some q → k < 7 → p.ifr.getLsbD k = false → q.ifr.getLsbD k = true →
    raisesFlags i = true ∧ k ≠ 2

/-- The mechanics follow the output bits of PIC2's port B (R354): every operation, a MECH_WRITE issued by the environment
among them (U11), keeps that the phase, the motor and the LED of every drive are those bits. -/
def Obligations.MechanicsKeepFollowingTheMechanicsPort : Prop :=
  ∀ (i : Instr) (s t : State), (∀ x ∈ s.drives, MechanicsFollow s.cfg x) → exec i s = .next t →
    ∀ x ∈ t.drives, MechanicsFollow t.cfg x

/-- Every step keeps the block well formed: usable parameters, present drives on the bus in ascending order, every head in
range (R45), every memory in canonical form and in range (R49), buffers exactly while a disk is present, each of its track's
size (R62 c) with its cursor inside (R48). What usable parameters meet beside the stated constraints is inferred (log 18). -/
def Obligations.EveryStepKeepsTheBlockWellFormed : Prop :=
  ∀ s t : State, StateOk s → step s = .next t → StateOk t

/-- The port inputs of a drive's chips stay as wired (R213, R293, R294) under every operation but a direct SET_PA_IN or
SET_PB_IN on a chip inside a drive, with pins on different bits of a port, which is inferred (log 18). -/
def Obligations.PortInputsStayAsWired : Prop :=
  ∀ (i : Instr) (s t : State), ConfigUsable s.cfg → (∀ x ∈ s.drives, PinsWired s.cfg x) → setsWiredPins i = false →
    exec i s = .next t → ∀ x ∈ t.drives, PinsWired t.cfg x

/-- The invariants hold after reset, with the default parameters; those parameters meet the stated constraints and the inferred
ones (log 18). -/
def Obligations.ResetMeetsEveryInvariant : Prop :=
  StateOk State.reset ∧ ∀ x ∈ State.reset.drives, MechanicsFollow State.reset.cfg x ∧ PinsWired State.reset.cfg x

/-- What an operation leaves alone (R330, R333): every drive it does not name, and the bus reaches attached drives only; the
standalone chip, but for the operations on it and RESET; the bus's own state, but for HOST_SET, attach, detach and RESET;
always the parameters, the requests not yet taken and the number of drives; and the trace only grows, but for RESET. -/
def Obligations.UnitsNotAddressedAreUnchanged : Prop :=
  ∀ (i : Instr) (s t : State), exec i s = .next t →
    (∀ d, ¬ mayChangeDrive i s d → t.drives[d]? = s.drives[d]?) ∧
    (¬ mayChangeChip i → t.chip = s.chip) ∧ (changesBus i = false → t.bus = s.bus) ∧
    t.cfg = s.cfg ∧ t.pending = s.pending ∧ t.drives.length = s.drives.length ∧ (i ≠ .reset → s.trace <+: t.trace)

/-- Every byte of memory is as before, but for what is stored: no operation changes a byte of ROM (R49), and a byte of a
drive's RAM changes only by RESET and by a DRV_MEMWR of that drive whose address names that byte (R93: nothing is buffered
or cached). -/
def Obligations.RamChangesOnlyWhereItIsWrittenAndRomNever : Prop :=
  ∀ (i : Instr) (s t : State) (d : Nat) (x y : Drive), exec i s = .next t → s.drives[d]? = some x →
    t.drives[d]? = some y →
    (∀ offset, y.romByte d offset = x.romByte d offset) ∧
    (i ≠ .reset → ∀ offset, (∀ addr v, i = .drvMemwr d addr v → targetOf s.cfg addr ≠ .ram offset) →
      y.ramByte t.powerOns d offset = x.ramByte s.powerOns d offset)
end

