-- ==== Sys2Proof/Laws/Pins.lean ====
section
/-! SUPPORT. The tick as a repetition (spec/41_pic_timers_lines.md R170), a control line in one equation (R180), and that
the cycles of the timers commute with the control line CA1 and with the port inputs. -/

namespace Sys2Proof.Machine

/-- `n` cycles are the single cycle repeated. -/
theorem Pic.ticks_eq_iterate (cfg : Config) (n : Nat) (p : Pic) :
    p.ticks cfg n = (fun q : Pic => (q.t1Cycle cfg).t2Cycle)^[n] p := by
  induction n generalizing p with
  | zero => rfl
  | succ n ih => rw [Pic.ticks, ih]; rfl

/-- `a + b` cycles are `a` cycles and then `b`. -/
theorem Pic.ticks_add (cfg : Config) (a b : Nat) (p : Pic) : p.ticks cfg (a + b) = (p.ticks cfg a).ticks cfg b := by
  simp only [Pic.ticks_eq_iterate, Nat.add_comm a b, Function.iterate_add_apply]

/-- A report on CA1 in one equation: the level is recorded; the active edge sets the flag and may fill the latch. -/
theorem Pic.setCa1_eq (level : Bool) (p : Pic) :
    p.setCa1 level =
      { p with
        ca1Prev := level
        ifr := if activeEdge (p.pcr.getLsbD 0) p.ca1Prev level then (p.setFlag flagCa1).ifr else p.ifr
        ila := if activeEdge (p.pcr.getLsbD 0) p.ca1Prev level && p.acr.getLsbD 0 then p.ina else p.ila } := by
  unfold Pic.setCa1
  cases activeEdge (p.pcr.getLsbD 0) p.ca1Prev level <;> cases p.acr.getLsbD 0 <;> simp [Pic.setFlag]

/-- The order in which two flags are set does not matter. -/
theorem flags_or_right_comm (a b c : Flags) : a ||| b ||| c = a ||| c ||| b := by
  rw [BitVec.or_assoc, BitVec.or_comm b c, BitVec.or_assoc]

theorem Pic.t1Cycle_setCa1 (cfg : Config) (level : Bool) (p : Pic) :
    (p.t1Cycle cfg).setCa1 level = (p.setCa1 level).t1Cycle cfg := by
  rw [Pic.setCa1_eq, Pic.setCa1_eq]
  cases h1 : p.t1Run <;> by_cases h2 : p.t1c = 0#16 <;> cases h3 : p.acr.getLsbD 6 <;>
    cases h4 : activeEdge (p.pcr.getLsbD 0) p.ca1Prev level <;>
    simp only [Pic.t1Cycle, Pic.t1Underflow, Pic.setFlag, h1, h2, h3, h4, Bool.false_eq_true, if_true, if_false,
      flags_or_right_comm p.ifr (1#7 <<< flagCa1)]

theorem Pic.t2Cycle_setCa1 (level : Bool) (p : Pic) : p.t2Cycle.setCa1 level = (p.setCa1 level).t2Cycle := by
  rw [Pic.setCa1_eq, Pic.setCa1_eq]
  cases h1 : p.t2Run <;> by_cases h2 : p.t2c = 0#16 <;>
    cases h4 : activeEdge (p.pcr.getLsbD 0) p.ca1Prev level <;>
    simp only [Pic.t2Cycle, Pic.setFlag, h1, h2, h4, Bool.false_eq_true, if_true, if_false,
      flags_or_right_comm p.ifr (1#7 <<< flagCa1)]

/-- Cycles commute with a report on CA1. -/
theorem Pic.ticks_setCa1 (cfg : Config) (level : Bool) (n : Nat) (p : Pic) :
    (p.ticks cfg n).setCa1 level = (p.setCa1 level).ticks cfg n := by
  induction n generalizing p with
  | zero => rfl
  | succ n ih =>
    have one : (p.cycle cfg).setCa1 level = (p.setCa1 level).cycle cfg := by
      rw [Pic.cycle, Pic.t2Cycle_setCa1, Pic.t1Cycle_setCa1]; rfl
    rw [Pic.ticks, Pic.ticks, ih, one]

/-- Cycles commute with a change of the port inputs. -/
theorem Pic.ticks_pins (cfg : Config) (a b : Byte) (n : Nat) (p : Pic) :
    ({ p with ina := a, inb := b } : Pic).ticks cfg n = { p.ticks cfg n with ina := a, inb := b } := by
  induction n generalizing p with
  | zero => rfl
  | succ n ih =>
    have one : ({ p with ina := a, inb := b } : Pic).cycle cfg = { p.cycle cfg with ina := a, inb := b } := by
      cases h1 : p.t1Run <;> by_cases h2 : p.t1c = 0#16 <;> cases h3 : p.acr.getLsbD 6 <;> cases h5 : p.t2Run <;>
        by_cases h6 : p.t2c = 0#16 <;>
        simp only [Pic.cycle, Pic.t1Cycle, Pic.t1Underflow, Pic.t2Cycle, Pic.setFlag, h1, h2, h3, h5, h6,
          Bool.false_eq_true, if_true, if_false]
    rw [Pic.ticks, Pic.ticks, one, ih]

/-- Cycles leave the port inputs. -/
theorem Pic.ticks_inputs (cfg : Config) (n : Nat) (p : Pic) :
    (p.ticks cfg n).ina = p.ina ∧ (p.ticks cfg n).inb = p.inb := by
  have h := Pic.ticks_pins cfg p.ina p.inb n p
  rw [show ({ p with ina := p.ina, inb := p.inb } : Pic) = p from rfl] at h
  exact ⟨by rw [h], by rw [h]⟩

end Sys2Proof.Machine
end

