-- ==== Sys2Proof/Laws/State.lean ====
section
/-! SUPPORT. One lemma per field per state update: replacing a drive, a chip or a track buffer, returning a value,
emitting events, setting and clearing a flag. -/

namespace Sys2Proof.Machine

/-! ### updateDrive -/

@[simp] theorem State.updateDrive_cfg (s : State) (d : Nat) (f : Drive → Drive) : (s.updateDrive d f).cfg = s.cfg := rfl
@[simp] theorem State.updateDrive_chip (s : State) (d : Nat) (f : Drive → Drive) :
    (s.updateDrive d f).chip = s.chip := rfl
@[simp] theorem State.updateDrive_bus (s : State) (d : Nat) (f : Drive → Drive) : (s.updateDrive d f).bus = s.bus := rfl
@[simp] theorem State.updateDrive_trace (s : State) (d : Nat) (f : Drive → Drive) :
    (s.updateDrive d f).trace = s.trace := rfl
@[simp] theorem State.updateDrive_result (s : State) (d : Nat) (f : Drive → Drive) :
    (s.updateDrive d f).result = s.result := rfl
@[simp] theorem State.updateDrive_pending (s : State) (d : Nat) (f : Drive → Drive) :
    (s.updateDrive d f).pending = s.pending := rfl
@[simp] theorem State.updateDrive_powerOns (s : State) (d : Nat) (f : Drive → Drive) :
    (s.updateDrive d f).powerOns = s.powerOns := rfl

/-- A drive after an update of drive `d`: changed at `d`, as before elsewhere. -/
@[simp] theorem State.updateDrive_getElem? (s : State) (d e : Nat) (f : Drive → Drive) :
    (s.updateDrive d f).drives[e]? = (if d = e then f else id) <$> s.drives[e]? := by
  simp only [State.updateDrive, List.getElem?_modify]; split <;> rfl

@[simp] theorem State.updateDrive_length (s : State) (d : Nat) (f : Drive → Drive) :
    (s.updateDrive d f).drives.length = s.drives.length := by
  simp [State.updateDrive]

/-! ### returning and emit -/

@[simp] theorem State.returning_cfg (s : State) (r : Result) : (s.returning r).cfg = s.cfg := rfl
@[simp] theorem State.returning_chip (s : State) (r : Result) : (s.returning r).chip = s.chip := rfl
@[simp] theorem State.returning_bus (s : State) (r : Result) : (s.returning r).bus = s.bus := rfl
@[simp] theorem State.returning_drives (s : State) (r : Result) : (s.returning r).drives = s.drives := rfl
@[simp] theorem State.returning_trace (s : State) (r : Result) : (s.returning r).trace = s.trace := rfl
@[simp] theorem State.returning_result (s : State) (r : Result) : (s.returning r).result = r := rfl
@[simp] theorem State.returning_pending (s : State) (r : Result) : (s.returning r).pending = s.pending := rfl
@[simp] theorem State.returning_powerOns (s : State) (r : Result) : (s.returning r).powerOns = s.powerOns := rfl

@[simp] theorem State.emit_cfg (s : State) (es : List Event) : (s.emit es).cfg = s.cfg := rfl
@[simp] theorem State.emit_chip (s : State) (es : List Event) : (s.emit es).chip = s.chip := rfl
@[simp] theorem State.emit_bus (s : State) (es : List Event) : (s.emit es).bus = s.bus := rfl
@[simp] theorem State.emit_drives (s : State) (es : List Event) : (s.emit es).drives = s.drives := rfl
@[simp] theorem State.emit_trace (s : State) (es : List Event) : (s.emit es).trace = s.trace ++ es := rfl
@[simp] theorem State.emit_result (s : State) (es : List Event) : (s.emit es).result = s.result := rfl
@[simp] theorem State.emit_pending (s : State) (es : List Event) : (s.emit es).pending = s.pending := rfl
@[simp] theorem State.emit_powerOns (s : State) (es : List Event) : (s.emit es).powerOns = s.powerOns := rfl

/-! ### setChip -/

@[simp] theorem State.setChip_cfg (s : State) (c : ChipRef) (p : Pic) : (s.setChip c p).cfg = s.cfg := by cases c <;> rfl
@[simp] theorem State.setChip_bus (s : State) (c : ChipRef) (p : Pic) : (s.setChip c p).bus = s.bus := by cases c <;> rfl
@[simp] theorem State.setChip_trace (s : State) (c : ChipRef) (p : Pic) : (s.setChip c p).trace = s.trace := by
  cases c <;> rfl
@[simp] theorem State.setChip_result (s : State) (c : ChipRef) (p : Pic) : (s.setChip c p).result = s.result := by
  cases c <;> rfl
@[simp] theorem State.setChip_pending (s : State) (c : ChipRef) (p : Pic) : (s.setChip c p).pending = s.pending := by
  cases c <;> rfl
@[simp] theorem State.setChip_powerOns (s : State) (c : ChipRef) (p : Pic) :
    (s.setChip c p).powerOns = s.powerOns := by cases c <;> rfl
@[simp] theorem State.setChip_length (s : State) (c : ChipRef) (p : Pic) :
    (s.setChip c p).drives.length = s.drives.length := by cases c <;> simp [State.setChip]

@[simp] theorem State.setChip_standalone (s : State) (p : Pic) : s.setChip .standalone p = { s with chip := p } := rfl
@[simp] theorem State.setChip_pic1 (s : State) (d : Nat) (p : Pic) :
    s.setChip (.pic1 d) p = s.updateDrive d fun x => { x with pic1 := p } := rfl
@[simp] theorem State.setChip_pic2 (s : State) (d : Nat) (p : Pic) :
    s.setChip (.pic2 d) p = s.updateDrive d fun x => { x with pic2 := p } := rfl

/-- Reading a chip that was just replaced. -/
theorem State.chipAt_setChip (s : State) (c : ChipRef) (p q : Pic) (h : s.chipAt c = some p) :
    (s.setChip c q).chipAt c = some q := by
  cases c with
  | standalone => rfl
  | pic1 d =>
    simp only [State.chipAt, Option.map_eq_some_iff] at h
    obtain ⟨x, hx, -⟩ := h
    simp [State.chipAt, hx]
  | pic2 d =>
    simp only [State.chipAt, Option.map_eq_some_iff] at h
    obtain ⟨x, hx, -⟩ := h
    simp [State.chipAt, hx]

/-! ### setTrack -/

@[simp] theorem State.setTrack_cfg (s : State) (d t : Nat) (b : Track) : (s.setTrack d t b).cfg = s.cfg := rfl
@[simp] theorem State.setTrack_chip (s : State) (d t : Nat) (b : Track) : (s.setTrack d t b).chip = s.chip := rfl
@[simp] theorem State.setTrack_bus (s : State) (d t : Nat) (b : Track) : (s.setTrack d t b).bus = s.bus := rfl
@[simp] theorem State.setTrack_trace (s : State) (d t : Nat) (b : Track) : (s.setTrack d t b).trace = s.trace := rfl
@[simp] theorem State.setTrack_pending (s : State) (d t : Nat) (b : Track) :
    (s.setTrack d t b).pending = s.pending := rfl
@[simp] theorem State.setTrack_powerOns (s : State) (d t : Nat) (b : Track) :
    (s.setTrack d t b).powerOns = s.powerOns := rfl
@[simp] theorem Drive.setTrack_pic1 (x : Drive) (t : Nat) (b : Track) : (x.setTrack t b).pic1 = x.pic1 := rfl
@[simp] theorem Drive.setTrack_pic2 (x : Drive) (t : Nat) (b : Track) : (x.setTrack t b).pic2 = x.pic2 := rfl
@[simp] theorem Drive.setTrack_ht (x : Drive) (t : Nat) (b : Track) : (x.setTrack t b).ht = x.ht := rfl
@[simp] theorem Drive.setTrack_ram (x : Drive) (t : Nat) (b : Track) : (x.setTrack t b).ram = x.ram := rfl
@[simp] theorem Drive.setTrack_rom (x : Drive) (t : Nat) (b : Track) : (x.setTrack t b).rom = x.rom := rfl
@[simp] theorem Drive.setTrack_rotAcc (x : Drive) (t : Nat) (b : Track) : (x.setTrack t b).rotAcc = x.rotAcc := rfl
@[simp] theorem Drive.setTrack_inSync (x : Drive) (t : Nat) (b : Track) : (x.setTrack t b).inSync = x.inSync := rfl
@[simp] theorem Drive.setTrack_headByte (x : Drive) (t : Nat) (b : Track) :
    (x.setTrack t b).headByte = x.headByte := rfl
@[simp] theorem Drive.setTrack_diskPresent (x : Drive) (t : Nat) (b : Track) :
    (x.setTrack t b).diskPresent = x.diskPresent := rfl

/-! ### Flags -/

@[simp] theorem Pic.setFlag_ier (p : Pic) (k : Nat) : (p.setFlag k).ier = p.ier := rfl
@[simp] theorem Pic.setFlag_pcr (p : Pic) (k : Nat) : (p.setFlag k).pcr = p.pcr := rfl
@[simp] theorem Pic.setFlag_acr (p : Pic) (k : Nat) : (p.setFlag k).acr = p.acr := rfl
@[simp] theorem Pic.setFlag_ifr (p : Pic) (k : Nat) : (p.setFlag k).ifr = p.ifr ||| (1#7 <<< k) := rfl
@[simp] theorem Pic.clearFlag_ier (p : Pic) (k : Nat) : (p.clearFlag k).ier = p.ier := rfl
@[simp] theorem Pic.clearFlag_pcr (p : Pic) (k : Nat) : (p.clearFlag k).pcr = p.pcr := rfl
@[simp] theorem Pic.clearFlag_acr (p : Pic) (k : Nat) : (p.clearFlag k).acr = p.acr := rfl
@[simp] theorem Pic.clearFlag_ifr (p : Pic) (k : Nat) : (p.clearFlag k).ifr = p.ifr &&& ~~~(1#7 <<< k) := rfl

/-- Setting flag `k` sets bit `k` and no other. -/
theorem Pic.setFlag_bit (p : Pic) (k i : Nat) (hi : i < 7) :
    (p.setFlag k).ifr.getLsbD i = (p.ifr.getLsbD i || decide (i = k)) := by
  rcases Nat.lt_trichotomy i k with h | h | h
  · simp [h, Nat.ne_of_lt h]
  · subst h; simp [hi]
  · have : i - k ≠ 0 := by omega
    simp [Nat.ne_of_gt h, Nat.not_lt.mpr (Nat.le_of_lt h), this]

/-- Clearing flag `k` clears bit `k` and no other. -/
theorem Pic.clearFlag_bit (p : Pic) (k i : Nat) (hi : i < 7) :
    (p.clearFlag k).ifr.getLsbD i = (p.ifr.getLsbD i && !decide (i = k)) := by
  rcases Nat.lt_trichotomy i k with h | h | h
  · simp [hi, h, Nat.ne_of_lt h]
  · subst h; simp [hi]
  · have : i - k ≠ 0 := by omega
    simp [hi, Nat.ne_of_gt h, Nat.not_lt.mpr (Nat.le_of_lt h), this]

end Sys2Proof.Machine
end

