-- ==== Sys2Proof/Laws/Bus.lean ====
section
/-! SUPPORT. The attached set as a strictly rising list (spec/42_serial_bus.md R208), when every attached drive releases a
line (R202), and a change of the same kind in several drives, drive by drive (R203, R210). -/

namespace Sys2Proof.Machine

/-- Exactly `d` joins. -/
theorem mem_attachIndex (d e : Nat) (l : List Nat) : e ∈ attachIndex d l ↔ e = d ∨ e ∈ l := by
  induction l with
  | nil => simp [attachIndex]
  | cons a l ih =>
    simp only [attachIndex]
    split
    · simp
    · split
      · subst a; simp
      · simp [ih]; tauto

/-- The list stays strictly rising. -/
theorem attachIndex_rising (d : Nat) (l : List Nat) (h : l.Pairwise (· < ·)) :
    (attachIndex d l).Pairwise (· < ·) := by
  induction l with
  | nil => simp [attachIndex]
  | cons a l ih =>
    have h' := h
    rw [List.pairwise_cons] at h
    simp only [attachIndex]
    split
    · rw [List.pairwise_cons]
      refine ⟨fun b hb => ?_, h'⟩
      rcases List.mem_cons.mp hb with rfl | hb
      · assumption
      · have := h.1 b hb; omega
    · split
      · exact h'
      · rw [List.pairwise_cons]
        refine ⟨fun b hb => ?_, ih h.2⟩
        rcases (mem_attachIndex _ _ _).mp hb with rfl | hb
        · omega
        · exact h.1 b hb

/-- Every attached drive that is present releases the line. -/
theorem State.allRelease_iff (s : State) (out : Drive → Bool) :
    s.allRelease out = true ↔ ∀ d ∈ s.bus.attached, ∀ x, s.drives[d]? = some x → out x = true := by
  simp only [State.allRelease, List.all_eq_true]
  constructor
  · intro h d hd x hx
    have := h d hd
    simpa [hx] using this
  · intro h d hd
    cases hx : s.drives[d]? with
    | none => rfl
    | some x => simpa using h d hd x hx

/-- Two changes of one drive are one. -/
theorem State.updateDrive_updateDrive (s : State) (d : Nat) (f g : Drive → Drive) :
    (s.updateDrive d f).updateDrive d g = s.updateDrive d (g ∘ f) := by
  simp only [State.updateDrive, State.mk.injEq, true_and, and_true]
  apply List.ext_getElem?
  intro i
  simp only [List.getElem?_modify]
  split
  · simp; rfl
  · simp

/-- The same change made in drives one after the other: each drive is changed as often as it is named, and nothing else
changes. -/
theorem State.foldl_updateDrive (f : Drive → Drive) (l : List Nat) (s : State) :
    let t := l.foldl (fun s d => s.updateDrive d f) s
    (t.cfg = s.cfg ∧ t.chip = s.chip ∧ t.bus = s.bus ∧ t.trace = s.trace ∧ t.result = s.result ∧
      t.pending = s.pending ∧ t.powerOns = s.powerOns ∧ t.drives.length = s.drives.length) ∧
    ∀ d : Nat, t.drives[d]? = (f^[l.count d]) <$> s.drives[d]? := by
  induction l generalizing s with
  | nil => simp
  | cons e l ih =>
    obtain ⟨⟨h1, h2, h3, h4, h5, h6, h7, h8⟩, h9⟩ := ih (s.updateDrive e f)
    simp only [List.foldl_cons]
    refine ⟨⟨h1, h2, h3, h4, h5, h6, h7, h8.trans (State.updateDrive_length s e f)⟩, fun d => ?_⟩
    rw [h9, State.updateDrive_getElem?]
    by_cases hd : e = d
    · subst hd; simp [Function.iterate_succ, Function.comp_def]
    · simp [hd]

/-- The push of the lines is the same change in every attached drive. -/
theorem State.pushAll_eq (s : State) (l : Lines) :
    s.pushAll l = s.bus.attached.foldl (fun t d => t.updateDrive d (Drive.pushLines s.cfg l)) s := by
  have key : ∀ (cfg : Config) (ds : List Nat) (t : State), t.cfg = cfg →
      ds.foldl (fun u d => u.updateDrive d (Drive.pushLines u.cfg l)) t =
        ds.foldl (fun u d => u.updateDrive d (Drive.pushLines cfg l)) t := by
    intro cfg ds
    induction ds with
    | nil => intro t _; rw [List.foldl_nil, List.foldl_nil]
    | cons e ds ih =>
      intro t ht
      rw [List.foldl_cons, List.foldl_cons, ht]
      exact ih _ (by rw [State.updateDrive_cfg, ht])
  rw [State.pushAll, key s.cfg s.bus.attached s rfl]

end Sys2Proof.Machine
end

