-- ==== Sys2Proof/Laws/Config.lean ====
section
/-! SUPPORT. The default parameters meet the constraints that spec/00_scope.md R7, spec/20_memory.md R72 and
spec/43_gcr_codec.md R231 put on them. -/

namespace Sys2Proof

/-- The defaults of R7 are admissible. -/
theorem Config.default_ok : ConfigOk Config.default := by constructor <;> decide +kernel

/-- The defaults of R7 meet the inferred conditions too (log 18). -/
theorem Config.default_usable : ConfigUsable Config.default where
  toConfigOk := Config.default_ok
  mapFits := by decide +kernel
  busPins := by decide +kernel
  mechPins := by decide +kernel
  sizesPos := by decide +kernel

end Sys2Proof
end

