-- ==== Sys2Proof/Laws/Ops.lean ====
section
/-! SUPPORT. What each shared operation can do, said once: the operations on drives, chips and tracks, and the laws of the
byte storage and of bit placement. -/

namespace Sys2Proof.Machine

/-! ### Operations on a drive, a chip or a track -/

/-- An operation on a present drive is its continuation. -/
theorem onDrive_of_some {s : State} {d : Nat} {x : Drive} (h : s.drives[d]? = some x)
    (k : Drive → Host.Outcome State Fault Refusal) : onDrive s d k = k x := by simp [onDrive, h]

/-- Everything an operation on a drive can answer with a next state. -/
theorem onDrive_next {s t : State} {d : Nat} {k : Drive → Host.Outcome State Fault Refusal}
    (h : onDrive s d k = .next t) : ∃ x, s.drives[d]? = some x ∧ k x = .next t := by
  unfold onDrive at h
  split at h
  · cases h
  · exact ⟨_, ‹_›, h⟩

/-- A register read of a present chip. -/
theorem readChip_of_some {s : State} {c : ChipRef} {p : Pic} (h : s.chipAt c = some p) (f : Pic → Byte × Pic) :
    readChip c f s = .next ((s.setChip c (f p).2).returning (.byte (f p).1)) := by simp [readChip, h]

/-- Everything a register read can answer with a next state. -/
theorem readChip_next {s t : State} {c : ChipRef} {f : Pic → Byte × Pic} (h : readChip c f s = .next t) :
    ∃ p, s.chipAt c = some p ∧ t = (s.setChip c (f p).2).returning (.byte (f p).1) := by
  unfold readChip at h
  split at h
  · cases h
  · cases h; exact ⟨_, ‹_›, rfl⟩

/-- A change of a present chip. -/
theorem writeChip_of_some {s : State} {c : ChipRef} {p : Pic} (h : s.chipAt c = some p) (f : Pic → Pic) :
    writeChip c f s = .next ((s.setChip c (f p)).returning .none) := by simp [writeChip, h]

/-- Everything a change of a chip can answer with a next state. -/
theorem writeChip_next {s t : State} {c : ChipRef} {f : Pic → Pic} (h : writeChip c f s = .next t) :
    ∃ p, s.chipAt c = some p ∧ t = (s.setChip c (f p)).returning .none := by
  unfold writeChip at h
  split at h
  · cases h
  · cases h; exact ⟨_, ‹_›, rfl⟩

/-- A port B write of a present chip: the change, then the hook. -/
theorem writePortB_of_some {s : State} {c : ChipRef} {p : Pic} (h : s.chipAt c = some p) (f : Pic → Pic) :
    writePortB c f s = .next ((State.portHook c (s.setChip c (f p))).returning .none) := by simp [writePortB, h]

/-- Everything a port B write can answer with a next state. -/
theorem writePortB_next {s t : State} {c : ChipRef} {f : Pic → Pic} (h : writePortB c f s = .next t) :
    ∃ p, s.chipAt c = some p ∧ t = (State.portHook c (s.setChip c (f p))).returning .none := by
  unfold writePortB at h
  split at h
  · cases h
  · cases h; exact ⟨_, ‹_›, rfl⟩

/-- An operation on a present track buffer is its continuation. -/
theorem onTrack_of_some {s : State} {d t : Nat} {x : Drive} {b : Track} (hd : s.drives[d]? = some x)
    (ht : trackInRange s.cfg t) (hp : x.diskPresent = true) (hb : x.tracks[t - 1]? = some b)
    (k : Track → Host.Outcome State Fault Refusal) : onTrack s d t k = k b := by
  simp only [onTrack, onDrive_of_some hd, if_pos ht, hp, if_true, Drive.track?, hb]

/-- Everything an operation on a track buffer can answer with a next state. -/
theorem onTrack_next {s u : State} {d t : Nat} {k : Track → Host.Outcome State Fault Refusal}
    (h : onTrack s d t k = .next u) :
    ∃ x b, s.drives[d]? = some x ∧ trackInRange s.cfg t ∧ x.diskPresent = true ∧ x.tracks[t - 1]? = some b ∧
      k b = .next u := by
  obtain ⟨x, hx, h⟩ := onDrive_next h
  split at h
  · split at h
    · split at h
      · cases h
      · exact ⟨x, _, hx, ‹_›, ‹_›, ‹_›, h⟩
    · cases h
  · cases h

/-! ### Byte storage -/

/-- Reading the offset just written gives the value written. -/
@[simp] theorem Memory.read_write_same (m : Memory) (i : Nat) (v : Byte) : (m.write i v).read i = some v := by
  induction m with
  | nil => simp [Memory.write, Memory.read]
  | cons c m ih =>
    obtain ⟨a, w⟩ := c
    simp only [Memory.write]
    split
    · simp [Memory.read]
    · split
      · simp [Memory.read]
      · have : a ≠ i := by omega
        simp [Memory.read, this, ih]

/-- A write leaves every other offset alone. -/
theorem Memory.read_write_other (m : Memory) {i j : Nat} (v : Byte) (h : i ≠ j) :
    (m.write i v).read j = m.read j := by
  induction m with
  | nil => simp [Memory.write, Memory.read, h]
  | cons c m ih =>
    obtain ⟨a, w⟩ := c
    simp only [Memory.write]
    split
    · simp [Memory.read, h]
    · split
      · subst i; simp [Memory.read, h]
      · simp [Memory.read, ih]

/-- A write to a canonical tail whose offsets lie above `a` keeps the list headed by `a` canonical. -/
theorem Memory.wf_cons_write (m : Memory) {a i : Nat} (w v : Byte) (ha : a < i)
    (hm : Memory.wf ((a, w) :: m) = true) : Memory.wf ((a, w) :: m.write i v) = true := by
  induction m generalizing a w with
  | nil => simp [Memory.write, Memory.wf, ha]
  | cons c m ih =>
    obtain ⟨b, u⟩ := c
    simp only [Memory.wf, Bool.and_eq_true, decide_eq_true_eq] at hm
    simp only [Memory.write]
    split
    · simp [Memory.wf, *]
    · split
      · subst i
        cases m with
        | nil => simp [Memory.wf, ha]
        | cons e m => simp_all [Memory.wf]
      · simp [Memory.wf, hm.1, ih u (by omega) hm.2]

/-- A write keeps the canonical form. -/
theorem Memory.wf_write (m : Memory) (i : Nat) (v : Byte) (h : m.wf = true) : (m.write i v).wf = true := by
  cases m with
  | nil => rfl
  | cons c m =>
    obtain ⟨a, w⟩ := c
    simp only [Memory.write]
    split
    · simp [Memory.wf, *]
    · split
      · cases m with
        | nil => rfl
        | cons e m => simp_all [Memory.wf]
      · exact Memory.wf_cons_write m w v (by omega) h

/-- A write below `size` keeps every offset below `size`. -/
theorem Memory.within_write (m : Memory) {size i : Nat} (v : Byte) (hi : i < size) (h : m.within size = true) :
    Memory.within size (m.write i v) = true := by
  induction m with
  | nil => simp [Memory.write, Memory.within, hi]
  | cons c m ih =>
    obtain ⟨a, w⟩ := c
    simp only [Memory.within, List.all_cons, Bool.and_eq_true, decide_eq_true_eq] at h ih
    simp only [Memory.write]
    split
    · simp only [Memory.within, List.all_cons, Bool.and_eq_true, decide_eq_true_eq]
      exact ⟨hi, h⟩
    · split
      · simp only [Memory.within, List.all_cons, Bool.and_eq_true, decide_eq_true_eq]
        exact ⟨hi, h.2⟩
      · simp only [Memory.within, List.all_cons, Bool.and_eq_true, decide_eq_true_eq]
        exact ⟨h.1, ih h.2⟩

/-- The memories of every drive after reset are canonical. -/
theorem State.reset_memory_wf : ∀ x ∈ State.reset.drives, x.ram.wf = true ∧ x.rom.wf = true := by decide

/-! ### Bit placement -/

/-- `setBit` changes the one bit it names. -/
theorem setBit_bit (v : Byte) (i j : Nat) (b : Bool) (hj : j < 8) :
    (setBit v i b).getLsbD j = if j = i then b else v.getLsbD j := by
  unfold setBit
  rcases Nat.lt_trichotomy j i with h | h | h
  · cases b <;> simp [h, Nat.ne_of_lt h, hj]
  · subst h; cases b <;> simp [hj]
  · have h0 : j - i ≠ 0 := by omega
    have h1 : j ≠ i := by omega
    cases b <;> simp [hj, h1, Nat.not_lt.mpr (Nat.le_of_lt h), h0]

/-- Placing two different bits in either order is the same. -/
theorem setBit_comm (v : Byte) {i j : Nat} (a b : Bool) (h : i ≠ j) :
    setBit (setBit v i a) j b = setBit (setBit v j b) i a := by
  apply BitVec.eq_of_getLsbD_eq
  intro k hk
  simp only [setBit_bit _ _ _ _ hk]
  split <;> split <;> simp_all

/-- The last placement of a bit counts. -/
@[simp] theorem setBit_setBit (v : Byte) (i : Nat) (a b : Bool) : setBit (setBit v i a) i b = setBit v i b := by
  apply BitVec.eq_of_getLsbD_eq
  intro k hk
  simp only [setBit_bit _ _ _ _ hk]
  split <;> simp_all

/-- The value of two bytes put together. -/
theorem append_toNat (h l : Byte) : (h ++ l : Word16).toNat = h.toNat * 256 + l.toNat := by
  have := BitVec.toNat_append h l
  rw [← Nat.shiftLeft_add_eq_or_of_lt l.isLt, Nat.shiftLeft_eq] at this
  exact this

/-- A timer value with its low byte replaced. -/
theorem withLow_toNat (w : Word16) (v : Byte) : (withLow w v).toNat = w.toNat / 256 * 256 + v.toNat := by
  have hw := w.isLt
  rw [withLow, append_toNat, highByte, BitVec.extractLsb'_toNat, Nat.shiftRight_eq_div_pow]
  omega

/-- A timer value with its high byte replaced. -/
theorem withHigh_toNat (w : Word16) (v : Byte) : (withHigh w v).toNat = v.toNat * 256 + w.toNat % 256 := by
  rw [withHigh, append_toNat, lowByte, BitVec.extractLsb'_toNat, Nat.shiftRight_eq_div_pow]
  omega

end Sys2Proof.Machine
end

