-- ==== Sys2Proof/Laws/Gcr.lean ====
section
/-! SUPPORT. Multi-group coding group by group (spec/43_gcr_codec.md R230): lengths, the slice of each group, and when a
decode meets an invalid code. -/

namespace Sys2Proof.Machine

/-- A list of four or more bytes starts with four bytes. -/
theorem exists_four {bs : List Byte} {m : Nat} (h : bs.length = 4 * (m + 1)) :
    ∃ b0 b1 b2 b3 rest, bs = b0 :: b1 :: b2 :: b3 :: rest ∧ rest.length = 4 * m := by
  match bs with
  | [] | [_] | [_, _] | [_, _, _] => simp at h <;> omega
  | b0 :: b1 :: b2 :: b3 :: rest => exact ⟨b0, b1, b2, b3, rest, rfl, by simp at h; omega⟩

/-- A list of five or more bytes starts with five bytes. -/
theorem exists_five {gs : List Byte} {m : Nat} (h : gs.length = 5 * (m + 1)) :
    ∃ g0 g1 g2 g3 g4 rest, gs = g0 :: g1 :: g2 :: g3 :: g4 :: rest ∧ rest.length = 5 * m := by
  match gs with
  | [] | [_] | [_, _] | [_, _, _] | [_, _, _, _] => simp at h <;> omega
  | g0 :: g1 :: g2 :: g3 :: g4 :: rest => exact ⟨g0, g1, g2, g3, g4, rest, rfl, by simp at h; omega⟩

theorem encGroup_length (table : List (BitVec 5)) (b0 b1 b2 b3 : Byte) :
    (encGroup table b0 b1 b2 b3).length = 5 := rfl

theorem decGroup_length (table : List (BitVec 5)) (g0 g1 g2 g3 g4 : Byte) :
    (decGroup table g0 g1 g2 g3 g4).1.length = 4 := rfl

/-- Decoding one more group in front. -/
theorem decBytes_cons (table : List (BitVec 5)) (g0 g1 g2 g3 g4 : Byte) (rest : List Byte) :
    decBytes table (g0 :: g1 :: g2 :: g3 :: g4 :: rest) =
      ((decGroup table g0 g1 g2 g3 g4).1 ++ (decBytes table rest).1,
        (decGroup table g0 g1 g2 g3 g4).2.toNat + (decBytes table rest).2) := rfl

/-- `m` groups of four bytes are coded in `m` groups of five. -/
theorem encBytes_length (table : List (BitVec 5)) (m : Nat) (bs : List Byte) (h : bs.length = 4 * m) :
    (encBytes table bs).length = 5 * m := by
  induction m generalizing bs with
  | zero =>
    obtain rfl : bs = [] := by simpa using h
    rfl
  | succ m ih =>
    obtain ⟨b0, b1, b2, b3, rest, rfl, hr⟩ := exists_four h
    rw [encBytes, List.length_append, ih rest hr, encGroup_length]; omega

/-- `m` groups of five bytes decode to `m` groups of four. -/
theorem decBytes_length (table : List (BitVec 5)) (m : Nat) (gs : List Byte) (h : gs.length = 5 * m) :
    (decBytes table gs).1.length = 4 * m := by
  induction m generalizing gs with
  | zero =>
    obtain rfl : gs = [] := by simpa using h
    rfl
  | succ m ih =>
    obtain ⟨g0, g1, g2, g3, g4, rest, rfl, hr⟩ := exists_five h
    rw [decBytes_cons, List.length_append, ih rest hr, decGroup_length]; omega

/-- The slice of group `k + 1` is the slice of group `k` after the first group. -/
theorem extract_succ {α : Type} {n : Nat} (front rest : List α) (h : front.length = n) (k : Nat) :
    (front ++ rest).extract (n * (k + 1)) (n * (k + 1) + n) = rest.extract (n * k) (n * k + n) := by
  subst h
  simp only [List.extract_eq_take_drop]
  rw [Nat.mul_succ, Nat.add_comm (front.length * k), List.drop_length_add_append]
  congr 1; omega

/-- The `k`-th group of a code is the code of the `k`-th group. -/
theorem encBytes_extract (table : List (BitVec 5)) (m : Nat) (bs : List Byte) (h : bs.length = 4 * m) (k : Nat)
    (hk : k < m) (b0 b1 b2 b3 : Byte) (hb : bs.extract (4 * k) (4 * k + 4) = [b0, b1, b2, b3]) :
    (encBytes table bs).extract (5 * k) (5 * k + 5) = encGroup table b0 b1 b2 b3 := by
  induction m generalizing bs k with
  | zero => omega
  | succ m ih =>
    obtain ⟨c0, c1, c2, c3, rest, rfl, hr⟩ := exists_four h
    rw [encBytes]
    cases k with
    | zero =>
      simp at hb
      obtain ⟨rfl, rfl, rfl, rfl⟩ := hb
      simp [encGroup]
    | succ k =>
      have hb' : rest.extract (4 * k) (4 * k + 4) = [b0, b1, b2, b3] := by
        rw [← hb]; exact (extract_succ [c0, c1, c2, c3] rest rfl k).symm
      rw [← ih rest hr k (by omega) hb']
      exact extract_succ _ _ (encGroup_length ..) k

/-- The `k`-th group of a decode is the decode of the `k`-th group. -/
theorem decBytes_extract (table : List (BitVec 5)) (m : Nat) (gs : List Byte) (h : gs.length = 5 * m) (k : Nat)
    (hk : k < m) (g0 g1 g2 g3 g4 : Byte) (hg : gs.extract (5 * k) (5 * k + 5) = [g0, g1, g2, g3, g4]) :
    (decBytes table gs).1.extract (4 * k) (4 * k + 4) = (decGroup table g0 g1 g2 g3 g4).1 := by
  induction m generalizing gs k with
  | zero => omega
  | succ m ih =>
    obtain ⟨c0, c1, c2, c3, c4, rest, rfl, hr⟩ := exists_five h
    rw [decBytes_cons]
    cases k with
    | zero =>
      simp at hg
      obtain ⟨rfl, rfl, rfl, rfl, rfl⟩ := hg
      simp [decGroup]
    | succ k =>
      have hg' : rest.extract (5 * k) (5 * k + 5) = [g0, g1, g2, g3, g4] := by
        rw [← hg]; exact (extract_succ [c0, c1, c2, c3, c4] rest rfl k).symm
      rw [← ih rest hr k (by omega) hg']
      exact extract_succ _ _ (decGroup_length ..) k

/-- A decode of `m` groups meets no invalid code exactly when no group does. -/
theorem decBytes_errors (table : List (BitVec 5)) (m : Nat) (gs : List Byte) (h : gs.length = 5 * m) :
    (decBytes table gs).2 = 0 ↔ ∀ k, k < m → ∀ g0 g1 g2 g3 g4 : Byte,
      gs.extract (5 * k) (5 * k + 5) = [g0, g1, g2, g3, g4] → (decGroup table g0 g1 g2 g3 g4).2 = false := by
  induction m generalizing gs with
  | zero =>
    obtain rfl : gs = [] := by simpa using h
    simp [decBytes]
  | succ m ih =>
    obtain ⟨c0, c1, c2, c3, c4, rest, rfl, hr⟩ := exists_five h
    rw [decBytes_cons]
    have shift : ∀ k, (c0 :: c1 :: c2 :: c3 :: c4 :: rest).extract (5 * (k + 1)) (5 * (k + 1) + 5) =
        rest.extract (5 * k) (5 * k + 5) := extract_succ [c0, c1, c2, c3, c4] rest rfl
    simp only [Nat.add_eq_zero_iff, ih rest hr]
    constructor
    · rintro ⟨h1, h2⟩ k hk g0 g1 g2 g3 g4 hg
      cases k with
      | zero =>
        simp at hg
        obtain ⟨rfl, rfl, rfl, rfl, rfl⟩ := hg
        simpa using h1
      | succ k => exact h2 k (by omega) g0 g1 g2 g3 g4 (by rw [← shift]; exact hg)
    · intro hall
      refine ⟨?_, fun k hk g0 g1 g2 g3 g4 hg => hall (k + 1) (by omega) g0 g1 g2 g3 g4 (by rw [shift]; exact hg)⟩
      rw [hall 0 (by omega) c0 c1 c2 c3 c4 (by simp)]; rfl

/-- The exclusive or of a byte string, from either end. -/
theorem xorBytes_eq_foldl (bs : List Byte) : xorBytes bs = bs.foldl (· ^^^ ·) 0 := by
  have key : ∀ (bs : List Byte) (a : Byte), bs.foldl (· ^^^ ·) a = a ^^^ bs.foldr (· ^^^ ·) 0 := by
    intro bs
    induction bs with
    | nil => intro a; simp
    | cons b bs ih => intro a; rw [List.foldl_cons, ih, List.foldr_cons, BitVec.xor_assoc]
  rw [key]; simp [xorBytes]

theorem encHeader_length (cfg : Config) (track sector id1 id2 : Byte) :
    (encHeader cfg track sector id1 id2).length = 10 := encBytes_length _ 2 _ rfl

theorem encData_length (cfg : Config) (payload : List Byte) (h : payload.length = 256) :
    (encData cfg payload).length = 325 := encBytes_length _ 65 _ (by simp [dataRecord, h])

end Sys2Proof.Machine
end

