-- ==== Sys2Proof/Laws/Track.lean ====
section
/-! SUPPORT. The sizes of sector spans and built tracks with admissible parameters (spec/44_gcr_track_sync.md R264,
R267, spec/10_state.md R48). -/

namespace Sys2Proof.Machine

/-- A total image gives 256 bytes for every sector. -/
theorem Image.bytesAt_length {image : Image} (h : Image.wellFormed image = true) (t n : Nat) :
    (Image.bytesAt image t n).length = 256 := by
  unfold Image.bytesAt
  split
  · have found := List.mem_of_find?_eq_some ‹_›
    simp only [Image.wellFormed, List.all_eq_true, beq_iff_eq] at h
    exact h _ found
  · exact List.length_replicate

/-- A sector span is 372 bytes. -/
theorem sectorSpan_length {cfg : Config} (ok : ConfigOk cfg) {image : Image} (h : Image.wellFormed image = true)
    (t n : Nat) (id1 id2 : Byte) : (sectorSpan cfg t n image id1 id2).length = 372 := by
  have := ok.runLengths
  simp only [sectorStride] at this
  simp only [sectorSpan, List.length_append, List.length_replicate, encData_length _ _ (Image.bytesAt_length h t n),
    encHeader_length]
  omega

/-- The spans of a track are 372 bytes for each of its sectors. -/
theorem trackSpans_length {cfg : Config} (ok : ConfigOk cfg) {image : Image} (h : Image.wellFormed image = true)
    (t : Nat) (id1 id2 : Byte) : (trackSpans cfg t image id1 id2).length = 372 * sectorsOf cfg t := by
  simp [trackSpans, List.length_flatMap, sectorSpan_length ok h, Nat.mul_comm]

/-- The spans of a track fit in its buffer. -/
theorem trackSpans_fit {cfg : Config} (ok : ConfigOk cfg) {t : Nat} (ht : trackInRange cfg t) :
    372 * sectorsOf cfg t ≤ trackSizeOf cfg t := by
  have hs : t - 1 < cfg.sectors.length := by rw [ok.sectorsLength]; have := ht.1; have := ht.2; omega
  have hz : t - 1 < cfg.zones.length := by rw [ok.zonesLength]; have := ht.1; have := ht.2; omega
  have := ok.sizesHold (cfg.sectors[t - 1], cfg.zones[t - 1]) (by
    rw [List.mem_iff_getElem]
    exact ⟨t - 1, by simp; omega, by simp⟩)
  unfold sectorsOf trackSizeOf zoneOf
  rw [List.getD_eq_getElem _ _ hs, List.getD_eq_getElem _ _ hz]
  exact this

/-- A built track has the size of its track, whatever the image, and its cursor is inside. -/
theorem buildTrack_size {cfg : Config} (ok : ConfigUsable cfg) {t : Nat} (ht : trackInRange cfg t) (image : Image)
    (id1 id2 : Byte) :
    (buildTrack cfg t image id1 id2).buf.length = trackSizeOf cfg t ∧
      (buildTrack cfg t image id1 id2).cursor < (buildTrack cfg t image id1 id2).buf.length := by
  have size : (buildTrack cfg t image id1 id2).buf.length = trackSizeOf cfg t := by simp [buildTrack]; omega
  refine ⟨size, ?_⟩
  have hz : t - 1 < cfg.zones.length := by rw [ok.zonesLength]; have := ht.1; have := ht.2; omega
  have pos := ok.sizesPos cfg.zones[t - 1] (List.getElem_mem hz)
  rw [size, trackSizeOf, zoneOf, List.getD_eq_getElem _ _ hz]
  exact pos

/-- An update of a sector keeps the buffer's size and its cursor. -/
theorem Track.updateSector_size (cfg : Config) (t n : Nat) (image : Image) (id1 id2 : Byte) (b : Track) :
    (b.updateSector cfg t n image id1 id2).buf.length = b.buf.length ∧
      (b.updateSector cfg t n image id1 id2).cursor = b.cursor := by
  refine ⟨?_, rfl⟩
  simp only [Track.updateSector, Track.size, List.length_take, List.length_append, List.length_drop]
  omega

end Sys2Proof.Machine
end

