-- ==== Sys2Proof/Laws/Effect.lean ====
section
/-! SUPPORT. What one operation can do, said once for all seventy: the effect on a chip, on a track buffer, on a drive and
on the block (`exec_effects`). Invariants and frames follow by cases on the effect instead of on the operation. -/

namespace Sys2Proof.Machine

/-- The operation sets the port inputs of the chip it addresses. -/
def setsPortInputs : Instr → Bool
  | .setPaIn _ _ | .setPbIn _ _ => true
  | _ => false

/-- What the function `f`, by which operation `i` changes a chip, can do to the chip: it sets a flag only if `i` is an
    event
for flags, and never `F_SR`; it changes the port inputs only if `i` sets them; and unless it is one of the `hook`ed
functions it keeps port B's output and direction registers. -/
structure PicEffect (i : Instr) (hook : Bool) (f : Pic → Pic) : Prop where
  flags : ∀ p k, k < 7 → p.ifr.getLsbD k = false → (f p).ifr.getLsbD k = true → raisesFlags i = true ∧ k ≠ 2
  pins : ∀ p, setsPortInputs i = false → (f p).ina = p.ina ∧ (f p).inb = p.inb
  port : ∀ p, hook = false → (f p).orb = p.orb ∧ (f p).ddrb = p.ddrb

/-- What a track operation can do to a buffer: it keeps the size and a cursor that is inside, or builds the track. -/
def TrackEffect (cfg : Config) (t : Nat) (b b' : Track) : Prop :=
  (b'.buf.length = b.buf.length ∧ (b.cursor < b.buf.length → b'.cursor < b.buf.length)) ∨
    ∃ image id1 id2, Image.wellFormed image = true ∧ b' = buildTrack cfg t image id1 id2

/-- What operation `i` in state `s` can make of drive `d`, which holds `x`. -/
inductive DriveEffect (i : Instr) (s : State) (d : Nat) (x : Drive) : Drive → Prop
  | same : DriveEffect i s d x x
  | pic1 (f) (effect : PicEffect i false f ∨ PicEffect i true f) (named : chipNamed i = some (.pic1 d)) :
      DriveEffect i s d x { x with pic1 := f x.pic1 }
  | pic2 (f) (effect : PicEffect i false f) (named : chipNamed i = some (.pic2 d)) :
      DriveEffect i s d x { x with pic2 := f x.pic2 }
  | hook (f) (effect : PicEffect i true f)
      (op : i = .resetPic (.pic2 d) ∨ (∃ v, i = .wrOrb (.pic2 d) v) ∨ ∃ v, i = .wrDdrb (.pic2 d) v) :
      DriveEffect i s d x (Drive.portHook s.cfg { x with pic2 := f x.pic2 })
  | push (l n) (op : i = .busUpdate) (attached : n ≠ 0 → d ∈ s.bus.attached) :
      DriveEffect i s d x ((Drive.pushLines s.cfg l)^[n] x)
  | busTick (n k) (op : i = .busTick n) (attached : k ≠ 0 → d ∈ s.bus.attached) :
      DriveEffect i s d x ((fun y => (y.ticks s.cfg n).1)^[k] x)
  | atnIn (l) (op : i = .drvSetAtnIn d l) : DriveEffect i s d x (x.setAtnIn s.cfg l)
  | clkIn (l) (op : i = .drvSetClkIn d l) : DriveEffect i s d x (x.setClkIn s.cfg l)
  | dataIn (l) (op : i = .drvSetDataIn d l) : DriveEffect i s d x (x.setDataIn s.cfg l)
  | tick (n) (op : i = .drvTick d n) : DriveEffect i s d x (x.ticks s.cfg n).1
  | memRead (a) (op : i = .drvMemrd d a) : DriveEffect i s d x (x.memRead s.cfg s.powerOns d a).2
  | memWrite (a v) (op : i = .drvMemwr d a v) : DriveEffect i s d x (x.memWrite s.cfg a v)
  | insert (image id1 id2) (total : Image.wellFormed image = true) (op : i = .drvInsert d image id1 id2) :
      DriveEffect i s d x (x.insert s.cfg image id1 id2)
  | eject (op : i = .drvEject d) : DriveEffect i s d x (x.eject s.cfg)
  | setWp (b) (op : i = .drvSetWp d b) : DriveEffect i s d x (x.setWp s.cfg b)
  | mechWrite (v) (value : v = x.mechPort) (op : i = .mechWrite d v) : DriveEffect i s d x (x.mechWrite s.cfg v)
  | track (t b b') (range : trackInRange s.cfg t) (disk : x.diskPresent = true) (found : x.tracks[t - 1]? = some b)
      (effect : TrackEffect s.cfg t b b') (op : trackNamed i = some (d, t) ∧ ∀ u, i ≠ .trkIsSync d u) :
      DriveEffect i s d x (x.setTrack t b')
  | reset (op : i = .reset) : DriveEffect i s d x (Drive.reset s.cfg x.rom)

/-- What operation `i` can make of the block `s`. -/
structure Effects (i : Instr) (s t : State) : Prop where
  cfg : t.cfg = s.cfg
  pending : t.pending = s.pending
  count : t.drives.length = s.drives.length
  chip : t.chip = s.chip ∨ (chipNamed i = some .standalone ∧ ∃ h f, PicEffect i h f ∧ t.chip = f s.chip) ∨
    (i = .reset ∧ t.chip = Pic.reset 0xFF 0xFF)
  bus : changesBus i = false → t.bus = s.bus
  attached : t.bus.attached = s.bus.attached ∨
    (∃ e, e < s.drives.length ∧ t.bus.attached = attachIndex e s.bus.attached) ∨
    (∃ e, t.bus.attached = s.bus.attached.filter (· != e)) ∨ t.bus.attached = []
  trace : i ≠ .reset → s.trace <+: t.trace
  powerOns : i ≠ .reset → t.powerOns = s.powerOns
  drives : ∀ (d : Nat) (x y : Drive), s.drives[d]? = some x → t.drives[d]? = some y → DriveEffect i s d x y

/-! ### Effects of the shared operations -/

/-- An operation that only answers. -/
theorem Effects.returning (i s r) : Effects i s (s.returning r) where
  cfg := rfl
  pending := rfl
  count := rfl
  chip := .inl rfl
  bus _ := rfl
  attached := .inl rfl
  trace _ := List.prefix_rfl
  powerOns _ := rfl
  drives d x y hx hy := by rw [State.returning_drives, hx] at hy; cases hy; exact .same

/-- An operation that emits events and answers. -/
theorem Effects.emitting (i s r es) : Effects i s ((s.emit es).returning r) where
  cfg := rfl
  pending := rfl
  count := rfl
  chip := .inl rfl
  bus _ := rfl
  attached := .inl rfl
  trace _ := List.prefix_append _ _
  powerOns _ := rfl
  drives d x y hx hy := by rw [State.returning_drives, State.emit_drives, hx] at hy; cases hy; exact .same

/-- An operation that changes one drive, emits events and answers. -/
theorem Effects.updateEmit {i s d x} {f : Drive → Drive} {es r} (hx : s.drives[d]? = some x) (h : DriveEffect i s d x
    (f x)) : Effects i s (((s.updateDrive d f).emit es).returning r) where
  cfg := rfl
  pending := rfl
  count := by simp
  chip := .inl rfl
  bus _ := rfl
  attached := .inl rfl
  trace _ := List.prefix_append _ _
  powerOns _ := rfl
  drives e y z hy hz := by
    simp only [State.returning_drives, State.emit_drives, State.updateDrive_getElem?] at hz
    by_cases he : d = e
    · subst he; rw [hx] at hy; cases hy; simp [hx] at hz; subst hz; exact h
    · simp [he, hy] at hz; subst hz; exact .same

/-- An operation that changes one drive and answers. -/
theorem Effects.updateDrive {i s d x} {f : Drive → Drive} {r} (hx : s.drives[d]? = some x) (h : DriveEffect i s d x (f
    x)) : Effects i s ((s.updateDrive d f).returning r) := by
  have := Effects.updateEmit (es := []) (r := r) hx h
  have e : ((s.updateDrive d f).emit []) = s.updateDrive d f := by simp [State.emit]; rfl
  rwa [e] at this

/-- An operation that changes one chip, without the port B hook of a PIC2. -/
theorem Effects.setChip {i s c p q r h f} (hp : s.chipAt c = some p) (hq : q = f p) (hf : PicEffect i h f) (hn :
    chipNamed i = some c) (hh : h = true → ∀ d, c ≠ .pic2 d) : Effects i s ((s.setChip c q).returning r) := by
  subst hq
  cases c with
  | standalone =>
    cases hp
    exact ⟨rfl, rfl, rfl, .inr (.inl ⟨hn, h, f, hf, rfl⟩), fun _ => rfl, .inl rfl, fun _ => List.prefix_rfl, fun _ =>
        rfl, fun d x y hx hy => by
      have : s.drives[d]? = some y := hy
      rw [hx] at this; cases this; exact .same⟩
  | pic1 d =>
    simp only [State.chipAt, Option.map_eq_some_iff] at hp
    obtain ⟨x, hx, rfl⟩ := hp
    exact Effects.updateDrive hx (.pic1 f (by cases h; exact .inl hf; exact .inr hf) hn)
  | pic2 d =>
    simp only [State.chipAt, Option.map_eq_some_iff] at hp
    obtain ⟨x, hx, rfl⟩ := hp
    cases h
    · exact Effects.updateDrive hx (.pic2 f hf hn)
    · exact absurd rfl (hh rfl d)

/-- A register read. -/
theorem Effects.readChip {i s t c f} (h : readChip c f s = .next t) (hn : chipNamed i = some c) (hf : PicEffect i
    false fun p => (f p).2) : Effects i s t := by
  obtain ⟨p, hp, rfl⟩ := readChip_next h
  exact Effects.setChip (f := fun p => (f p).2) hp rfl hf hn (by simp)

/-- A chip operation without the port B hook. -/
theorem Effects.writeChip {i s t c f} (h : writeChip c f s = .next t) (hn : chipNamed i = some c) (hf : PicEffect i
    false f) : Effects i s t := by
  obtain ⟨p, hp, rfl⟩ := writeChip_next h
  exact Effects.setChip (f := f) hp rfl hf hn (by simp)

/-- A chip operation with the port B hook (R303). -/
theorem Effects.writePortB {i s t c f} (h : writePortB c f s = .next t) (hn : chipNamed i = some c) (hf : PicEffect i
    true f)
   (hi : i = .resetPic c ∨ (∃ v, i = .wrOrb c v) ∨ ∃ v, i = .wrDdrb c v) : Effects i s t := by
  obtain ⟨p, hp, rfl⟩ := writePortB_next h
  cases c with
  | standalone => exact Effects.setChip (c := .standalone) hp rfl hf hn (by simp)
  | pic1 d => exact Effects.setChip (c := .pic1 d) hp rfl hf hn (by simp)
  | pic2 d =>
    simp only [State.chipAt, Option.map_eq_some_iff] at hp
    obtain ⟨x, hx, rfl⟩ := hp
    simp only [State.portHook, State.setChip_pic2, State.updateDrive_updateDrive]
    exact Effects.updateDrive hx (.hook f hf hi)

/-- A drive operation with events. -/
theorem Effects.onDriveEmit {i s t d} {f : Drive → Drive} {es r} (h : onDrive s d (fun _ => .next (((s.updateDrive d
    f).emit es).returning r)) = .next t) (he : ∀ x, DriveEffect i s d x (f x)) : Effects i s t := by
  obtain ⟨x, hx, h⟩ := onDrive_next h
  cases h; exact Effects.updateEmit hx (he x)

/-- A drive operation. -/
theorem Effects.onDrive {i s t d} {f : Drive → Drive} {r} (h : onDrive s d (fun _ => .next ((s.updateDrive d
    f).returning r)) = .next t) (he : ∀ x, DriveEffect i s d x (f x)) : Effects i s t := by
  obtain ⟨x, hx, h⟩ := onDrive_next h
  cases h; exact Effects.updateDrive hx (he x)

/-- An operation on the bus state only. -/
theorem Effects.setBus {i : Instr} {s b r} (hc : changesBus i = true) (ha : b.attached = s.bus.attached ∨ (∃ e, e <
    s.drives.length ∧ b.attached = attachIndex e s.bus.attached) ∨ (∃ e, b.attached = s.bus.attached.filter (· != e))
    ∨ b.attached = []) : Effects i s (({ s with bus := b } : State).returning r) :=
  ⟨rfl, rfl, rfl, .inl rfl, fun h => (by rw [hc] at h; cases h), ha, fun _ => List.prefix_rfl, fun _ => rfl, fun d x y
      hx hy => by
      have : s.drives[d]? = some y := hy
      rw [hx] at this; cases this; exact .same⟩

/-- Masking sets no flag. -/
theorem flag_and_elim {a b : Flags} {k} (h0 : a.getLsbD k = false) (h1 : (a &&& b).getLsbD k = true) : False := by
    simp [h0] at h1

/-- Clearing a flag sets none. -/
theorem flag_cleared_elim {p : Pic} {k j} (hk : j < 7) (h0 : p.ifr.getLsbD j = false) (h1 : (p.clearFlag
    k).ifr.getLsbD j = true) : False := by
  rw [Pic.clearFlag_bit _ _ _ hk, h0] at h1; simp at h1

/-- Setting a flag sets that flag only. -/
theorem flag_set_eq {p : Pic} {k j} (hk : j < 7) (h0 : p.ifr.getLsbD j = false) (h1 : (p.setFlag k).ifr.getLsbD j =
    true) : j = k := by
  rw [Pic.setFlag_bit _ _ _ hk, h0] at h1; simpa using h1

/-- No change of the chip. -/
theorem PicEffect.same (i h) : PicEffect i h (fun p => p) := ⟨fun p k _ a b => (by rw [a] at b; cases b), fun _ _ =>
    ⟨rfl, rfl⟩, fun _ _ => ⟨rfl, rfl⟩⟩

/-- One change after another. -/
theorem PicEffect.comp {i h f g} (hf : PicEffect i h f) (hg : PicEffect i h g) : PicEffect i h (fun p => f (g p)) := by
  refine ⟨fun p k hk a b => ?_, fun p hp => ?_, fun p hp => ?_⟩
  · by_cases hm : (g p).ifr.getLsbD k = true
    · exact hg.flags p k hk a hm
    · exact hf.flags _ k hk (by simpa using hm) b
  · rw [(hf.pins _ hp).1, (hf.pins _ hp).2]; exact hg.pins p hp
  · rw [(hf.port _ hp).1, (hf.port _ hp).2]; exact hg.port p hp

/-- A cleared flag. -/
theorem PicEffect.clearFlag (i h k) : PicEffect i h (fun p => p.clearFlag k) :=
  ⟨fun _ _ hj a b => (flag_cleared_elim hj a b).elim, fun _ _ => ⟨rfl, rfl⟩, fun _ _ => ⟨rfl, rfl⟩⟩

/-- The flags a port A access clears. -/
theorem PicEffect.clearA (i h) : PicEffect i h Pic.clearA := by
  refine ⟨fun p j hj a b => ?_, fun p _ => ?_, fun p _ => ?_⟩
  · unfold Pic.clearA at b; simp only at b
    split at b
    · exact (flag_cleared_elim hj a b).elim
    · by_cases hm : (p.clearFlag flagCa1).ifr.getLsbD j = true
      · exact (flag_cleared_elim hj a hm).elim
      · exact (flag_cleared_elim hj (by simpa using hm) b).elim
  · unfold Pic.clearA; simp only; split <;> exact ⟨rfl, rfl⟩
  · unfold Pic.clearA; simp only; split <;> exact ⟨rfl, rfl⟩

/-- The flags a port B access clears. -/
theorem PicEffect.clearB (i h) : PicEffect i h Pic.clearB := by
  refine ⟨fun p j hj a b => ?_, fun p _ => ?_, fun p _ => ?_⟩
  · unfold Pic.clearB at b; simp only at b
    split at b
    · exact (flag_cleared_elim hj a b).elim
    · by_cases hm : (p.clearFlag flagCb1).ifr.getLsbD j = true
      · exact (flag_cleared_elim hj a hm).elim
      · exact (flag_cleared_elim hj (by simpa using hm) b).elim
  · unfold Pic.clearB; simp only; split <;> exact ⟨rfl, rfl⟩
  · unfold Pic.clearB; simp only; split <;> exact ⟨rfl, rfl⟩

/-- functions that keep flags, pins and port -/
theorem PicEffect.keep {i h f} (h1 : ∀ p : Pic, (f p).ifr = p.ifr) (h2 : ∀ p : Pic, (f p).ina = p.ina ∧ (f p).inb =
    p.inb) (h3 : ∀ p : Pic, h = false → (f p).orb = p.orb ∧ (f p).ddrb = p.ddrb) : PicEffect i h f :=
  ⟨fun p k _ a b => (by rw [h1, a] at b; cases b), fun p _ => h2 p, h3⟩

/-- A set flag, by an event. -/
theorem PicEffect.setFlag (i h k) (hi : raisesFlags i = true) (hk : k ≠ 2) : PicEffect i h (fun p => p.setFlag k) :=
  ⟨fun p j hj a b => ⟨hi, by rw [flag_set_eq hj a b]; exact hk⟩, fun _ _ => ⟨rfl, rfl⟩, fun _ _ => ⟨rfl, rfl⟩⟩

/-- A reported CA1 level. -/
theorem PicEffect.setCa1 (i h l) (hi : raisesFlags i = true) : PicEffect i h (Pic.setCa1 l) := by
  refine ⟨fun p j hj a b => ?_, fun p _ => ?_, fun p _ => ?_⟩
  · unfold Pic.setCa1 at b; simp only at b
    split at b
    · exact (PicEffect.setFlag i h flagCa1 hi (by decide)).flags p j hj a b
    · rw [a] at b; cases b
  · unfold Pic.setCa1; simp only; split <;> exact ⟨rfl, rfl⟩
  · unfold Pic.setCa1; simp only; split <;> exact ⟨rfl, rfl⟩

/-- A reported CB1 level. -/
theorem PicEffect.setCb1 (i h l) (hi : raisesFlags i = true) : PicEffect i h (Pic.setCb1 l) := by
  refine ⟨fun p j hj a b => ?_, fun p _ => ?_, fun p _ => ?_⟩
  · unfold Pic.setCb1 at b; simp only at b
    split at b
    · exact (PicEffect.setFlag i h flagCb1 hi (by decide)).flags p j hj a b
    · rw [a] at b; cases b
  · unfold Pic.setCb1; simp only; split <;> exact ⟨rfl, rfl⟩
  · unfold Pic.setCb1; simp only; split <;> exact ⟨rfl, rfl⟩

/-- A reported CA2 level. -/
theorem PicEffect.setCa2 (i h l) (hi : raisesFlags i = true) : PicEffect i h (Pic.setCa2 l) := by
  refine ⟨fun p j hj a b => ?_, fun p _ => ?_, fun p _ => ?_⟩
  · unfold Pic.setCa2 at b; simp only at b
    split at b
    · exact (PicEffect.setFlag i h flagCa2 hi (by decide)).flags p j hj a b
    · rw [a] at b; cases b
  · unfold Pic.setCa2; simp only; split <;> exact ⟨rfl, rfl⟩
  · unfold Pic.setCa2; simp only; split <;> exact ⟨rfl, rfl⟩

/-- A reported CB2 level. -/
theorem PicEffect.setCb2 (i h l) (hi : raisesFlags i = true) : PicEffect i h (Pic.setCb2 l) := by
  refine ⟨fun p j hj a b => ?_, fun p _ => ?_, fun p _ => ?_⟩
  · unfold Pic.setCb2 at b; simp only at b
    split at b
    · exact (PicEffect.setFlag i h flagCb2 hi (by decide)).flags p j hj a b
    · rw [a] at b; cases b
  · unfold Pic.setCb2; simp only; split <;> exact ⟨rfl, rfl⟩
  · unfold Pic.setCb2; simp only; split <;> exact ⟨rfl, rfl⟩

/-- One cycle of both timers. -/
theorem PicEffect.cycle (i h cfg) (hi : raisesFlags i = true) : PicEffect i h (Pic.cycle cfg) := by
  have h1 : PicEffect i h (Pic.t1Cycle cfg) := by
    refine ⟨fun p j hj a b => ?_, fun p _ => ?_, fun p _ => ?_⟩
    · unfold Pic.t1Cycle Pic.t1Underflow at b; simp only at b
      split at b
      · split at b
        · split at b <;> exact (PicEffect.setFlag i h flagT1 hi (by decide)).flags p j hj a b
        · simp only at b; rw [a] at b; cases b
      · rw [a] at b; cases b
    · unfold Pic.t1Cycle Pic.t1Underflow; simp only; split
      · split
        · split <;> exact ⟨rfl, rfl⟩
        · exact ⟨rfl, rfl⟩
      · exact ⟨rfl, rfl⟩
    · unfold Pic.t1Cycle Pic.t1Underflow; simp only; split
      · split
        · split <;> exact ⟨rfl, rfl⟩
        · exact ⟨rfl, rfl⟩
      · exact ⟨rfl, rfl⟩
  have h2 : PicEffect i h (Pic.t2Cycle) := by
    refine ⟨fun p j hj a b => ?_, fun p _ => ?_, fun p _ => ?_⟩
    · unfold Pic.t2Cycle at b; simp only at b
      split at b
      · split at b
        · exact (PicEffect.setFlag i h flagT2 hi (by decide)).flags p j hj a b
        · simp only at b; rw [a] at b; cases b
      · rw [a] at b; cases b
    · unfold Pic.t2Cycle; split
      · split <;> exact ⟨rfl, rfl⟩
      · exact ⟨rfl, rfl⟩
    · unfold Pic.t2Cycle; split
      · split <;> exact ⟨rfl, rfl⟩
      · exact ⟨rfl, rfl⟩
  exact PicEffect.comp (f := Pic.t2Cycle) (g := Pic.t1Cycle cfg) h2 h1

/-- A number of cycles. -/
theorem PicEffect.ticks (i h cfg n) (hi : raisesFlags i = true) : PicEffect i h (Pic.ticks cfg n) := by
  induction n with
  | zero => exact PicEffect.same i h
  | succ n ih => exact PicEffect.comp (f := Pic.ticks cfg n) (g := Pic.cycle cfg) ih (PicEffect.cycle i h cfg hi)

/-- The reset of one chip. -/
theorem PicEffect.resetPic (i) : PicEffect i true Pic.resetPic :=
  ⟨fun p k _ _ b => by simp [Pic.resetPic, Pic.reset] at b, fun _ _ => ⟨rfl, rfl⟩, fun _ h => by cases h⟩

/-- New live pins. -/
theorem PicEffect.portInputs (i h f) (hs : setsPortInputs i = true) (h1 : ∀ p : Pic, (f p).ifr = p.ifr) (h3 : ∀ p :
    Pic, (f p).orb = p.orb ∧ (f p).ddrb = p.ddrb) : PicEffect i h f :=
  ⟨fun p k _ a b => (by rw [h1, a] at b; cases b), fun p hp => (by rw [hs] at hp; cases hp), fun p _ => h3 p⟩

/-- An operation on a track buffer. -/
theorem Effects.onTrack {i s u d t} {k : Track → Host.Outcome State Fault Refusal} (h : onTrack s d t k = .next u)
   (hk : ∀ b, trackInRange s.cfg t → k b = .next u → (∃ b' es r, u = (((s.setTrack d t b').emit es).returning r) ∧
       TrackEffect s.cfg t b b'))
   (hi : trackNamed i = some (d, t) ∧ ∀ t, i ≠ .trkIsSync d t) : Effects i s u := by
  obtain ⟨x, b, hx, ht, hp, hb, hkb⟩ := onTrack_next h
  obtain ⟨b', es, r, rfl, he⟩ := hk b ht hkb
  exact Effects.updateEmit hx (.track t b b' ht hp hb he hi)

/-- Every next state of every operation is one of these effects. -/
theorem exec_effects (i : Instr) (s t : State) (h : exec i s = .next t) : Effects i s t := by
  cases i with
  | rdOrb c => exact Effects.readChip h rfl (PicEffect.clearB _ _)
  | rdOra c => exact Effects.readChip h rfl (PicEffect.clearA _ _)
  | rdDdrb c => exact Effects.readChip h rfl (PicEffect.same _ _)
  | rdDdra c => exact Effects.readChip h rfl (PicEffect.same _ _)
  | rdT1cl c => exact Effects.readChip h rfl (PicEffect.clearFlag _ _ _)
  | rdT1ch c => exact Effects.readChip h rfl (PicEffect.same _ _)
  | rdT1ll c => exact Effects.readChip h rfl (PicEffect.same _ _)
  | rdT1lh c => exact Effects.readChip h rfl (PicEffect.same _ _)
  | rdT2cl c => exact Effects.readChip h rfl (PicEffect.clearFlag _ _ _)
  | rdT2ch c => exact Effects.readChip h rfl (PicEffect.same _ _)
  | rdSr c =>
    exact Effects.readChip h rfl (PicEffect.comp (f := fun p => { p with srCnt := 8 }) (PicEffect.keep (fun _ => rfl)
      (fun _ => ⟨rfl, rfl⟩) fun _ _ => ⟨rfl, rfl⟩) (PicEffect.clearFlag _ _ flagSr))
  | rdAcr c => exact Effects.readChip h rfl (PicEffect.same _ _)
  | rdPcr c => exact Effects.readChip h rfl (PicEffect.same _ _)
  | rdIfr c => exact Effects.readChip h rfl (PicEffect.same _ _)
  | rdIer c => exact Effects.readChip h rfl (PicEffect.same _ _)
  | rdOranh c => exact Effects.readChip h rfl (PicEffect.same _ _)
  | wrOrb c v =>
    exact Effects.writePortB h rfl (PicEffect.comp (PicEffect.clearB _ _) (g := fun p => { p with orb := v })
      (PicEffect.keep (fun _ => rfl) (fun _ => ⟨rfl, rfl⟩) fun _ h => by cases h)) (.inr (.inl ⟨v, rfl⟩))
  | wrOra c v =>
    exact Effects.writeChip h rfl (PicEffect.comp (PicEffect.clearA _ _) (g := fun p => { p with ora := v })
      (PicEffect.keep (fun _ => rfl) (fun _ => ⟨rfl, rfl⟩) fun _ h => ⟨rfl, rfl⟩))
  | wrDdrb c v =>
    exact Effects.writePortB h rfl (PicEffect.keep (fun _ => rfl) (fun _ => ⟨rfl, rfl⟩) fun _ h => by cases h) (.inr
      (.inr ⟨v, rfl⟩))
  | wrDdra c v =>
    exact Effects.writeChip h rfl (PicEffect.keep (fun _ => rfl) (fun _ => ⟨rfl, rfl⟩) fun _ h => ⟨rfl, rfl⟩)
  | wrT1cl c v =>
    exact Effects.writeChip h rfl (PicEffect.keep (fun _ => rfl) (fun _ => ⟨rfl, rfl⟩) fun _ h => ⟨rfl, rfl⟩)
  | wrT1ch c v =>
    exact Effects.writeChip h rfl ⟨fun p j hj a b => (flag_cleared_elim (k := flagT1) hj a b).elim, fun _ _ => ⟨rfl,
      rfl⟩, fun _ _ => ⟨rfl, rfl⟩⟩
  | wrT1ll c v =>
    exact Effects.writeChip h rfl (PicEffect.keep (fun _ => rfl) (fun _ => ⟨rfl, rfl⟩) fun _ h => ⟨rfl, rfl⟩)
  | wrT1lh c v =>
    exact Effects.writeChip h rfl ⟨fun p j hj a b => (flag_cleared_elim (k := flagT1) hj a b).elim, fun _ _ => ⟨rfl,
      rfl⟩, fun _ _ => ⟨rfl, rfl⟩⟩
  | wrT2cl c v =>
    exact Effects.writeChip h rfl (PicEffect.keep (fun _ => rfl) (fun _ => ⟨rfl, rfl⟩) fun _ h => ⟨rfl, rfl⟩)
  | wrT2ch c v =>
    exact Effects.writeChip h rfl ⟨fun p j hj a b => (flag_cleared_elim (k := flagT2) hj a b).elim, fun _ _ => ⟨rfl,
      rfl⟩, fun _ _ => ⟨rfl, rfl⟩⟩
  | wrSr c v =>
    exact Effects.writeChip h rfl ⟨fun p j hj a b => (flag_cleared_elim (k := flagSr) hj a b).elim, fun _ _ => ⟨rfl,
      rfl⟩, fun _ _ => ⟨rfl, rfl⟩⟩
  | wrAcr c v =>
    exact Effects.writeChip h rfl (PicEffect.keep (fun _ => rfl) (fun _ => ⟨rfl, rfl⟩) fun _ h => ⟨rfl, rfl⟩)
  | wrPcr c v =>
    exact Effects.writeChip h rfl (PicEffect.keep (fun _ => rfl) (fun _ => ⟨rfl, rfl⟩) fun _ h => ⟨rfl, rfl⟩)
  | wrIfr c v =>
    exact Effects.writeChip h rfl ⟨fun _ _ _ a b => (flag_and_elim a b).elim, fun _ _ => ⟨rfl, rfl⟩, fun _ _ => ⟨rfl,
      rfl⟩⟩
  | wrIer c v =>
    exact Effects.writeChip h rfl (PicEffect.keep (fun _ => rfl) (fun _ => ⟨rfl, rfl⟩) fun _ h => ⟨rfl, rfl⟩)
  | wrOranh c v =>
    exact Effects.writeChip h rfl (PicEffect.keep (fun _ => rfl) (fun _ => ⟨rfl, rfl⟩) fun _ h => ⟨rfl, rfl⟩)
  | setCa1 c l => exact Effects.writeChip h rfl (PicEffect.setCa1 _ _ _ rfl)
  | setCa2 c l => exact Effects.writeChip h rfl (PicEffect.setCa2 _ _ _ rfl)
  | setCb1 c l => exact Effects.writeChip h rfl (PicEffect.setCb1 _ _ _ rfl)
  | setCb2 c l => exact Effects.writeChip h rfl (PicEffect.setCb2 _ _ _ rfl)
  | setPaIn c v => exact Effects.writeChip h rfl (PicEffect.portInputs _ _ _ rfl (fun _ => rfl) fun _ => ⟨rfl, rfl⟩)
  | setPbIn c v => exact Effects.writeChip h rfl (PicEffect.portInputs _ _ _ rfl (fun _ => rfl) fun _ => ⟨rfl, rfl⟩)
  | tick c n => exact Effects.writeChip h rfl (PicEffect.ticks _ _ _ _ rfl)
  | resetPic c => exact Effects.writePortB h rfl (PicEffect.resetPic _) (.inl rfl)
  | hostSet a k l => cases h; exact Effects.setBus rfl (.inl rfl)
  | busUpdate =>
    cases h
    rw [State.pushAll_eq]
    obtain ⟨⟨h1, h2, h3, h4, h5, h6, h7, h8⟩, h9⟩ := State.foldl_updateDrive (Drive.pushLines s.cfg s.resolve)
        s.bus.attached s
    refine ⟨h1, h6, h8, .inl h2, fun _ => h3, .inl (by rw [State.returning_bus, h3]),
      fun _ => (by rw [State.returning_trace, h4]), fun _ => h7, fun d x y hx hy => ?_⟩
    rw [State.returning_drives, h9, hx] at hy
    simp at hy; subst hy
    exact .push _ _ rfl fun h => by rwa [Ne, List.count_eq_zero, not_not] at h
  | busGetHostInput => cases h; exact Effects.returning _ _ _
  | busTick n =>
    cases h
    have key : ∀ (L : List Nat) (u : State), let t := L.foldl (State.tickDrive n) u
      t.cfg = u.cfg ∧ t.chip = u.chip ∧ t.bus = u.bus ∧ (∃ es, t.trace = u.trace ++ es) ∧ t.pending = u.pending ∧
          t.powerOns = u.powerOns ∧
      t.drives.length = u.drives.length ∧ (∀ d, t.drives[d]? = ((fun x : Drive => (x.ticks u.cfg n).1)^[L.count d])
          <$> u.drives[d]?) := by
      intro L; induction L with
      | nil => intro u; exact ⟨rfl, rfl, rfl, ⟨[], by simp⟩, rfl, rfl, rfl, by simp⟩
      | cons e L ih =>
        intro u
        obtain ⟨h1, h2, h3, ⟨es, h4⟩, h6, h7, h8, h9⟩ := ih (u.tickDrive n e)
        simp only [List.foldl_cons]
        have hu : (u.tickDrive n e).cfg = u.cfg ∧ (u.tickDrive n e).chip = u.chip ∧ (u.tickDrive n e).bus = u.bus ∧ (∃
            es, (u.tickDrive n e).trace = u.trace ++ es) ∧ (u.tickDrive n e).pending = u.pending ∧ (u.tickDrive n
            e).powerOns = u.powerOns ∧
      (u.tickDrive n e).drives.length = u.drives.length ∧ ∀ d : Nat, (u.tickDrive n e).drives[d]? = (if e = d then
          (fun x : Drive => (x.ticks u.cfg n).1) else id) <$> u.drives[d]? := by
          unfold State.tickDrive
          split
          · rename_i he
            refine ⟨rfl, rfl, rfl, ⟨[], by simp⟩, rfl, rfl, rfl, fun d => ?_⟩
            by_cases hd : e = d
            · subst hd; simp [he]
            · simp [hd]
          · rename_i x hx
            refine ⟨rfl, rfl, rfl, ⟨_, rfl⟩, rfl, rfl, by simp, fun d => ?_⟩
            simp only [State.emit_drives, State.updateDrive_getElem?]
            by_cases hd : e = d
            · subst hd; simp [hx]
            · simp [hd]
        obtain ⟨g1, g2, g3, ⟨es', g4⟩, g6, g7, g8, g9⟩ := hu
        refine ⟨h1.trans g1, h2.trans g2, h3.trans g3, ⟨es' ++ es, by rw [h4, g4, List.append_assoc]⟩, h6.trans g6,
            h7.trans g7, h8.trans g8, fun d => ?_⟩
        rw [h9, g9, g1]
        by_cases hd : e = d
        · subst hd; simp [Function.iterate_succ, Function.comp_def]
        · simp [hd]
    obtain ⟨h1, h2, h3, ⟨es, h4⟩, h6, h7, h8, h9⟩ := key s.bus.attached s
    refine ⟨h1, h6, h8, .inl h2, fun _ => h3, .inl (by rw [State.returning_bus, h3]), fun _ => ?_,
        fun _ => h7, fun d x y hx hy => ?_⟩
    · rw [State.returning_trace, h4]; exact List.prefix_append _ _
    rw [State.returning_drives, h9, hx] at hy
    simp at hy; subst hy
    exact .busTick _ _ rfl fun h => by rwa [Ne, List.count_eq_zero, not_not] at h
  | busAttach d =>
    obtain ⟨x, hx, h⟩ := onDrive_next h
    cases h
    exact Effects.setBus rfl (.inr (.inl ⟨d, (List.getElem?_eq_some_iff.1 hx).1, rfl⟩))
  | busDetach d =>
    obtain ⟨x, hx, h⟩ := onDrive_next h
    cases h
    exact Effects.setBus rfl (.inr (.inr (.inl ⟨d, rfl⟩)))
  | drvGetClkOut d => obtain ⟨x, hx, h⟩ := onDrive_next h; cases h; exact Effects.returning _ _ _
  | drvGetDataOut d => obtain ⟨x, hx, h⟩ := onDrive_next h; cases h; exact Effects.returning _ _ _
  | drvSetAtnIn d l => exact Effects.onDrive h fun x => .atnIn l rfl
  | drvSetClkIn d l => exact Effects.onDrive h fun x => .clkIn l rfl
  | drvSetDataIn d l => exact Effects.onDrive h fun x => .dataIn l rfl
  | drvTick d n =>
    obtain ⟨x, hx, h⟩ := onDrive_next h
    cases h
    rw [State.tickDrive, hx]
    exact Effects.updateEmit hx (.tick n rfl)
  | drvMemrd d a =>
    obtain ⟨x, hx, h⟩ := onDrive_next h
    cases h
    exact Effects.updateDrive hx (.memRead a rfl)
  | drvMemwr d a v => exact Effects.onDrive h fun x => .memWrite a v rfl
  | drvInsert d im a b =>
    obtain ⟨x, hx, h⟩ := onDrive_next h
    split at h
    · cases h; exact Effects.updateEmit hx (.insert _ _ _ (by assumption) rfl)
    · cases h
  | drvEject d => exact Effects.onDrive h fun x => .eject rfl
  | drvSetWp d b => exact Effects.onDrive h fun x => .setWp b rfl
  | reset =>
    cases h
    refine ⟨rfl, rfl, by simp [State.powerOn], .inr (.inr ⟨rfl, rfl⟩), fun h => (by cases h), .inr (.inr (.inr rfl)),
        fun h => absurd rfl h, fun h => absurd rfl h, fun d x y hx hy => ?_⟩
    simp [State.powerOn, hx] at hy; subst hy; exact .reset rfl
  | mechWrite d v =>
    obtain ⟨x, hx, h⟩ := onDrive_next h
    split at h
    · cases h; exact Effects.updateDrive hx (.mechWrite v ‹_› rfl)
    · cases h
  | gcrEncGroup a b c d => cases h; exact Effects.returning _ _ _
  | gcrDecGroup a b c d e => cases h; exact Effects.emitting _ _ _ _
  | gcrEncHeader a b c d => cases h; exact Effects.returning _ _ _
  | gcrDecHeader f =>
    change execGcrDecHeader f s = _ at h
    unfold execGcrDecHeader at h; split at h
    · cases h; exact Effects.emitting _ _ _ _
    · cases h
  | gcrEncData p =>
    change execGcrEncData p s = _ at h
    unfold execGcrEncData at h; split at h
    · cases h; exact Effects.returning _ _ _
    · cases h
  | gcrDecData f =>
    change execGcrDecData f s = _ at h
    unfold execGcrDecData at h; split at h
    · cases h; exact Effects.emitting _ _ _ _
    · cases h
  | trkReadByte d n =>
    refine Effects.onTrack h (fun b _ hb => ?_) ⟨rfl, by simp⟩
    cases hb
    exact ⟨b.readByte.2, [], _, by simp [State.emit]; rfl, .inl ⟨rfl, fun h => Nat.mod_lt _ (Nat.zero_lt_of_lt h)⟩⟩
  | trkWriteByte d n v =>
    refine Effects.onTrack h (fun b _ hb => ?_) ⟨rfl, by simp⟩
    cases hb
    refine ⟨b.writeByte v, [], _, by simp [State.emit]; rfl,
      .inl ⟨by simp [Track.writeByte, Track.advance], fun h => ?_⟩⟩
    simp only [Track.writeByte, Track.advance, Track.size, List.length_set]
    exact Nat.mod_lt _ (Nat.zero_lt_of_lt h)
  | trkIsSync d n =>
    obtain ⟨x, b, hx, ht, hp, hb, hkb⟩ := onTrack_next h
    cases hkb; exact Effects.returning _ _ _
  | trkBuild d n im a c =>
    refine Effects.onTrack h (fun b _ hb => ?_) ⟨rfl, by simp⟩
    split at hb
    · cases hb
      exact ⟨_, _, _, rfl, .inr ⟨im, a, c, by assumption, rfl⟩⟩
    · cases hb
  | trkUpdateSector d n im k a c =>
    refine Effects.onTrack h (fun b _ hb => ?_) ⟨rfl, by simp⟩
    split at hb
    · split at hb
      · cases hb
        refine ⟨b.updateSector s.cfg n k im a c, [], _, by simp [State.emit]; rfl, .inl ⟨?_, fun h => h⟩⟩
        simp only [Track.updateSector, Track.size, List.length_take, List.length_append, List.length_drop]; omega
      · cases hb
    · cases hb

end Sys2Proof.Machine
end

