-- ==== Sys2Proof/Laws/PerInstr.lean ====
section
/-! SUPPORT. The opcode table's row of every operation (spec/opcode_table.json), and for each that the selector of its
request is one of the row's words. -/

namespace Sys2Proof.Laws.TableRow

/-- The mask and the pattern of the operation's row in spec/opcode_table.json. -/
def row : Instr → BitVec 8 × BitVec 8
  | .rdOrb _ => (0xEF#8, 0x00#8)
  | .rdOra _ => (0xEF#8, 0x01#8)
  | .rdDdrb _ => (0xEF#8, 0x02#8)
  | .rdDdra _ => (0xEF#8, 0x03#8)
  | .rdT1cl _ => (0xEF#8, 0x04#8)
  | .rdT1ch _ => (0xEF#8, 0x05#8)
  | .rdT1ll _ => (0xEF#8, 0x06#8)
  | .rdT1lh _ => (0xEF#8, 0x07#8)
  | .rdT2cl _ => (0xEF#8, 0x08#8)
  | .rdT2ch _ => (0xEF#8, 0x09#8)
  | .rdSr _ => (0xEF#8, 0x0A#8)
  | .rdAcr _ => (0xEF#8, 0x0B#8)
  | .rdPcr _ => (0xEF#8, 0x0C#8)
  | .rdIfr _ => (0xEF#8, 0x0D#8)
  | .rdIer _ => (0xEF#8, 0x0E#8)
  | .rdOranh _ => (0xEF#8, 0x0F#8)
  | .wrOrb _ _ => (0xEF#8, 0x20#8)
  | .wrOra _ _ => (0xEF#8, 0x21#8)
  | .wrDdrb _ _ => (0xEF#8, 0x22#8)
  | .wrDdra _ _ => (0xEF#8, 0x23#8)
  | .wrT1cl _ _ => (0xEF#8, 0x24#8)
  | .wrT1ch _ _ => (0xEF#8, 0x25#8)
  | .wrT1ll _ _ => (0xEF#8, 0x26#8)
  | .wrT1lh _ _ => (0xEF#8, 0x27#8)
  | .wrT2cl _ _ => (0xEF#8, 0x28#8)
  | .wrT2ch _ _ => (0xEF#8, 0x29#8)
  | .wrSr _ _ => (0xEF#8, 0x2A#8)
  | .wrAcr _ _ => (0xEF#8, 0x2B#8)
  | .wrPcr _ _ => (0xEF#8, 0x2C#8)
  | .wrIfr _ _ => (0xEF#8, 0x2D#8)
  | .wrIer _ _ => (0xEF#8, 0x2E#8)
  | .wrOranh _ _ => (0xEF#8, 0x2F#8)
  | .setCa1 _ _ => (0xDE#8, 0x40#8)
  | .setCa2 _ _ => (0xDE#8, 0x42#8)
  | .setCb1 _ _ => (0xDE#8, 0x44#8)
  | .setCb2 _ _ => (0xDE#8, 0x46#8)
  | .setPaIn _ _ => (0xDF#8, 0x48#8)
  | .setPbIn _ _ => (0xDF#8, 0x4A#8)
  | .tick _ _ => (0xDF#8, 0x4C#8)
  | .resetPic _ => (0xDF#8, 0x4E#8)
  | .hostSet _ _ _ => (0xFF#8, 0x80#8)
  | .busUpdate => (0xFF#8, 0x81#8)
  | .busGetHostInput => (0xFF#8, 0x82#8)
  | .busTick _ => (0xFF#8, 0x83#8)
  | .busAttach _ => (0xFF#8, 0x84#8)
  | .busDetach _ => (0xFF#8, 0x85#8)
  | .drvGetClkOut _ => (0xFF#8, 0x86#8)
  | .drvGetDataOut _ => (0xFF#8, 0x87#8)
  | .drvSetAtnIn _ _ => (0xFF#8, 0x88#8)
  | .drvSetClkIn _ _ => (0xFF#8, 0x89#8)
  | .drvSetDataIn _ _ => (0xFF#8, 0x8A#8)
  | .drvTick _ _ => (0xFF#8, 0x8B#8)
  | .drvMemrd _ _ => (0xFF#8, 0x8C#8)
  | .drvMemwr _ _ _ => (0xFF#8, 0x8D#8)
  | .drvInsert _ _ _ _ => (0xFF#8, 0x8E#8)
  | .drvEject _ => (0xFF#8, 0x8F#8)
  | .drvSetWp _ _ => (0xFF#8, 0x90#8)
  | .reset => (0xFF#8, 0x91#8)
  | .mechWrite _ _ => (0xFF#8, 0x92#8)
  | .gcrEncGroup _ _ _ _ => (0xFF#8, 0xC0#8)
  | .gcrDecGroup _ _ _ _ _ => (0xFF#8, 0xC1#8)
  | .gcrEncHeader _ _ _ _ => (0xFF#8, 0xC2#8)
  | .gcrDecHeader _ => (0xFF#8, 0xC3#8)
  | .gcrEncData _ => (0xFF#8, 0xC4#8)
  | .gcrDecData _ => (0xFF#8, 0xC5#8)
  | .trkReadByte _ _ => (0xFF#8, 0xC6#8)
  | .trkWriteByte _ _ _ => (0xFF#8, 0xC7#8)
  | .trkIsSync _ _ => (0xFF#8, 0xC8#8)
  | .trkBuild _ _ _ _ _ => (0xFF#8, 0xC9#8)
  | .trkUpdateSector _ _ _ _ _ _ => (0xFF#8, 0xCA#8)

/-- The selector of the operation's request agrees with its row's pattern on the row's mask. -/
def Statement (i : Instr) : Prop := (encode i).opsel &&& (row i).1 = (row i).2

/-- Class 00: the row leaves the bit of the chip open. -/
theorem access (c : ChipRef) (w : Bool) (index : BitVec 4) (args : List Nat) (pattern : BitVec 8)
    (h : ∀ b : Bool, (0b00#2 ++ BitVec.ofBool w ++ BitVec.ofBool b ++ index) &&& 0xEF#8 = pattern) :
    (accessRequest w index c args).opsel &&& 0xEF#8 = pattern := h c.second

/-- Class 01 with a level: the row leaves the bits of the chip and of the level open. -/
theorem pin_level (c : ChipRef) (s : Bool) (kind : BitVec 4) (pattern : BitVec 8)
    (h : ∀ b s : Bool, (0b01#2 ++ BitVec.ofBool b ++ kind ++ BitVec.ofBool s) &&& 0xDE#8 = pattern) :
    (pinRequest kind s c []).opsel &&& 0xDE#8 = pattern := h c.second s

/-- Class 01 without a level: the row leaves the bit of the chip open. -/
theorem pin_plain (c : ChipRef) (kind : BitVec 4) (args : List Nat) (pattern : BitVec 8)
    (h : ∀ b : Bool, (0b01#2 ++ BitVec.ofBool b ++ kind ++ BitVec.ofBool false) &&& 0xDF#8 = pattern) :
    (pinRequest kind false c args).opsel &&& 0xDF#8 = pattern := h c.second

/-- Classes 10 and 11: the row fixes the whole selector. -/
theorem kind (cls : BitVec 2) (kind : BitVec 6) (args : List Nat) (pattern : BitVec 8)
    (h : (cls ++ kind) &&& 0xFF#8 = pattern) : (kindRequest cls kind args).opsel &&& 0xFF#8 = pattern := h

theorem rdOrb (c : ChipRef) : Statement (.rdOrb c) := access c _ _ _ 0x00#8 (by decide)
theorem rdOra (c : ChipRef) : Statement (.rdOra c) := access c _ _ _ 0x01#8 (by decide)
theorem rdDdrb (c : ChipRef) : Statement (.rdDdrb c) := access c _ _ _ 0x02#8 (by decide)
theorem rdDdra (c : ChipRef) : Statement (.rdDdra c) := access c _ _ _ 0x03#8 (by decide)
theorem rdT1cl (c : ChipRef) : Statement (.rdT1cl c) := access c _ _ _ 0x04#8 (by decide)
theorem rdT1ch (c : ChipRef) : Statement (.rdT1ch c) := access c _ _ _ 0x05#8 (by decide)
theorem rdT1ll (c : ChipRef) : Statement (.rdT1ll c) := access c _ _ _ 0x06#8 (by decide)
theorem rdT1lh (c : ChipRef) : Statement (.rdT1lh c) := access c _ _ _ 0x07#8 (by decide)
theorem rdT2cl (c : ChipRef) : Statement (.rdT2cl c) := access c _ _ _ 0x08#8 (by decide)
theorem rdT2ch (c : ChipRef) : Statement (.rdT2ch c) := access c _ _ _ 0x09#8 (by decide)
theorem rdSr (c : ChipRef) : Statement (.rdSr c) := access c _ _ _ 0x0A#8 (by decide)
theorem rdAcr (c : ChipRef) : Statement (.rdAcr c) := access c _ _ _ 0x0B#8 (by decide)
theorem rdPcr (c : ChipRef) : Statement (.rdPcr c) := access c _ _ _ 0x0C#8 (by decide)
theorem rdIfr (c : ChipRef) : Statement (.rdIfr c) := access c _ _ _ 0x0D#8 (by decide)
theorem rdIer (c : ChipRef) : Statement (.rdIer c) := access c _ _ _ 0x0E#8 (by decide)
theorem rdOranh (c : ChipRef) : Statement (.rdOranh c) := access c _ _ _ 0x0F#8 (by decide)
theorem wrOrb (c : ChipRef) (v : Byte) : Statement (.wrOrb c v) := access c _ _ _ 0x20#8 (by decide)
theorem wrOra (c : ChipRef) (v : Byte) : Statement (.wrOra c v) := access c _ _ _ 0x21#8 (by decide)
theorem wrDdrb (c : ChipRef) (v : Byte) : Statement (.wrDdrb c v) := access c _ _ _ 0x22#8 (by decide)
theorem wrDdra (c : ChipRef) (v : Byte) : Statement (.wrDdra c v) := access c _ _ _ 0x23#8 (by decide)
theorem wrT1cl (c : ChipRef) (v : Byte) : Statement (.wrT1cl c v) := access c _ _ _ 0x24#8 (by decide)
theorem wrT1ch (c : ChipRef) (v : Byte) : Statement (.wrT1ch c v) := access c _ _ _ 0x25#8 (by decide)
theorem wrT1ll (c : ChipRef) (v : Byte) : Statement (.wrT1ll c v) := access c _ _ _ 0x26#8 (by decide)
theorem wrT1lh (c : ChipRef) (v : Byte) : Statement (.wrT1lh c v) := access c _ _ _ 0x27#8 (by decide)
theorem wrT2cl (c : ChipRef) (v : Byte) : Statement (.wrT2cl c v) := access c _ _ _ 0x28#8 (by decide)
theorem wrT2ch (c : ChipRef) (v : Byte) : Statement (.wrT2ch c v) := access c _ _ _ 0x29#8 (by decide)
theorem wrSr (c : ChipRef) (v : Byte) : Statement (.wrSr c v) := access c _ _ _ 0x2A#8 (by decide)
theorem wrAcr (c : ChipRef) (v : Byte) : Statement (.wrAcr c v) := access c _ _ _ 0x2B#8 (by decide)
theorem wrPcr (c : ChipRef) (v : Byte) : Statement (.wrPcr c v) := access c _ _ _ 0x2C#8 (by decide)
theorem wrIfr (c : ChipRef) (v : Byte) : Statement (.wrIfr c v) := access c _ _ _ 0x2D#8 (by decide)
theorem wrIer (c : ChipRef) (v : Byte) : Statement (.wrIer c v) := access c _ _ _ 0x2E#8 (by decide)
theorem wrOranh (c : ChipRef) (v : Byte) : Statement (.wrOranh c v) := access c _ _ _ 0x2F#8 (by decide)
theorem setCa1 (c : ChipRef) (level : Bool) : Statement (.setCa1 c level) := pin_level c level _ 0x40#8 (by decide)
theorem setCa2 (c : ChipRef) (level : Bool) : Statement (.setCa2 c level) := pin_level c level _ 0x42#8 (by decide)
theorem setCb1 (c : ChipRef) (level : Bool) : Statement (.setCb1 c level) := pin_level c level _ 0x44#8 (by decide)
theorem setCb2 (c : ChipRef) (level : Bool) : Statement (.setCb2 c level) := pin_level c level _ 0x46#8 (by decide)
theorem setPaIn (c : ChipRef) (v : Byte) : Statement (.setPaIn c v) := pin_plain c _ _ 0x48#8 (by decide)
theorem setPbIn (c : ChipRef) (v : Byte) : Statement (.setPbIn c v) := pin_plain c _ _ 0x4A#8 (by decide)
theorem tick (c : ChipRef) (n : Nat) : Statement (.tick c n) := pin_plain c _ _ 0x4C#8 (by decide)
theorem resetPic (c : ChipRef) : Statement (.resetPic c) := pin_plain c _ _ 0x4E#8 (by decide)
theorem hostSet (atn : Bool) (clk : Bool) (data : Bool) :
    Statement (.hostSet atn clk data) := kind 0b10 0 _ 0x80#8 (by decide)
theorem busUpdate : Statement (.busUpdate) := kind 0b10 1 _ 0x81#8 (by decide)
theorem busGetHostInput : Statement (.busGetHostInput) := kind 0b10 2 _ 0x82#8 (by decide)
theorem busTick (n : Nat) : Statement (.busTick n) := kind 0b10 3 _ 0x83#8 (by decide)
theorem busAttach (d : Nat) : Statement (.busAttach d) := kind 0b10 4 _ 0x84#8 (by decide)
theorem busDetach (d : Nat) : Statement (.busDetach d) := kind 0b10 5 _ 0x85#8 (by decide)
theorem drvGetClkOut (d : Nat) : Statement (.drvGetClkOut d) := kind 0b10 6 _ 0x86#8 (by decide)
theorem drvGetDataOut (d : Nat) : Statement (.drvGetDataOut d) := kind 0b10 7 _ 0x87#8 (by decide)
theorem drvSetAtnIn (d : Nat) (line : Bool) : Statement (.drvSetAtnIn d line) := kind 0b10 8 _ 0x88#8 (by decide)
theorem drvSetClkIn (d : Nat) (line : Bool) : Statement (.drvSetClkIn d line) := kind 0b10 9 _ 0x89#8 (by decide)
theorem drvSetDataIn (d : Nat) (line : Bool) : Statement (.drvSetDataIn d line) := kind 0b10 10 _ 0x8A#8 (by decide)
theorem drvTick (d : Nat) (n : Nat) : Statement (.drvTick d n) := kind 0b10 11 _ 0x8B#8 (by decide)
theorem drvMemrd (d : Nat) (addr : Nat) : Statement (.drvMemrd d addr) := kind 0b10 12 _ 0x8C#8 (by decide)
theorem drvMemwr (d : Nat) (addr : Nat) (v : Byte) :
    Statement (.drvMemwr d addr v) := kind 0b10 13 _ 0x8D#8 (by decide)
theorem drvInsert (d : Nat) (image : Image) (id1 : Byte) (id2 : Byte) :
    Statement (.drvInsert d image id1 id2) := kind 0b10 14 _ 0x8E#8 (by decide)
theorem drvEject (d : Nat) : Statement (.drvEject d) := kind 0b10 15 _ 0x8F#8 (by decide)
theorem drvSetWp (d : Nat) (b : Bool) : Statement (.drvSetWp d b) := kind 0b10 16 _ 0x90#8 (by decide)
theorem reset : Statement (.reset) := kind 0b10 17 _ 0x91#8 (by decide)
theorem mechWrite (d : Nat) (v : Byte) : Statement (.mechWrite d v) := kind 0b10 18 _ 0x92#8 (by decide)
theorem gcrEncGroup (b0 : Byte) (b1 : Byte) (b2 : Byte) (b3 : Byte) :
    Statement (.gcrEncGroup b0 b1 b2 b3) := kind 0b11 0 _ 0xC0#8 (by decide)
theorem gcrDecGroup (g0 : Byte) (g1 : Byte) (g2 : Byte) (g3 : Byte) (g4 : Byte) :
    Statement (.gcrDecGroup g0 g1 g2 g3 g4) := kind 0b11 1 _ 0xC1#8 (by decide)
theorem gcrEncHeader (track : Byte) (sector : Byte) (id1 : Byte) (id2 : Byte) :
    Statement (.gcrEncHeader track sector id1 id2) := kind 0b11 2 _ 0xC2#8 (by decide)
theorem gcrDecHeader (frame : List Byte) : Statement (.gcrDecHeader frame) := kind 0b11 3 _ 0xC3#8 (by decide)
theorem gcrEncData (payload : List Byte) : Statement (.gcrEncData payload) := kind 0b11 4 _ 0xC4#8 (by decide)
theorem gcrDecData (frame : List Byte) : Statement (.gcrDecData frame) := kind 0b11 5 _ 0xC5#8 (by decide)
theorem trkReadByte (d : Nat) (t : Nat) : Statement (.trkReadByte d t) := kind 0b11 6 _ 0xC6#8 (by decide)
theorem trkWriteByte (d : Nat) (t : Nat) (v : Byte) :
    Statement (.trkWriteByte d t v) := kind 0b11 7 _ 0xC7#8 (by decide)
theorem trkIsSync (d : Nat) (t : Nat) : Statement (.trkIsSync d t) := kind 0b11 8 _ 0xC8#8 (by decide)
theorem trkBuild (d : Nat) (t : Nat) (image : Image) (id1 : Byte) (id2 : Byte) :
    Statement (.trkBuild d t image id1 id2) := kind 0b11 9 _ 0xC9#8 (by decide)
theorem trkUpdateSector (d : Nat) (t : Nat) (image : Image) (sector : Nat) (id1 : Byte) (id2 : Byte) :
    Statement (.trkUpdateSector d t image sector id1 id2) := kind 0b11 10 _ 0xCA#8 (by decide)

end Sys2Proof.Laws.TableRow
end

