-- ==== Sys2Proof/Laws/Rotation.lean ====
section
/-! SUPPORT. A consumed byte in one equation (spec/44_gcr_track_sync.md R271, R272), the rotation loop as consumed bytes
and a remainder (R270), and induction over a drive tick. -/

namespace Sys2Proof.Machine

/-- Signal in one equation: CA1 of PIC2 ends high; the flag is set unless this is the first signal under the negative
polarity; the latch may take the byte shown. -/
theorem Drive.signal_eq (x : Drive) :
    x.signal = { x with pic2 := { x.pic2 with
      ca1Prev := true
      ifr := if x.pic2.pcr.getLsbD 0 = true ∨ x.pic2.ca1Prev = true then (x.pic2.setFlag flagCa1).ifr else x.pic2.ifr
      ila := if (x.pic2.pcr.getLsbD 0 = true ∨ x.pic2.ca1Prev = true) ∧ x.pic2.acr.getLsbD 0 = true then x.pic2.ina
        else x.pic2.ila } } := by
  unfold Drive.signal
  rw [Pic.setCa1_eq, Pic.setCa1_eq]
  cases h1 : x.pic2.pcr.getLsbD 0 <;> cases h2 : x.pic2.ca1Prev <;> cases h3 : x.pic2.acr.getLsbD 0 <;>
    simp [activeEdge, Pic.setFlag]

/-- The detector changes the sync mode and PIC2 only. -/
theorem Drive.detect_form (b : Byte) (ahead : Bool) (x : Drive) :
    ∃ inSync pic2, (x.detect b ahead).1 = { x with inSync := inSync, pic2 := pic2 } := by
  unfold Drive.detect
  split
  · split
    · exact ⟨_, _, rfl⟩
    · split <;> exact ⟨_, _, rfl⟩
  · exact ⟨_, _, rfl⟩

/-- A consumed byte changes the sync mode, PIC2, the byte shown and the track buffers only. -/
theorem Drive.consumeByte_form (cfg : Config) (t : Nat) (x : Drive) :
    ∃ inSync pic2 headByte tracks, (x.consumeByte cfg t).1 =
      { x with inSync := inSync, pic2 := pic2, headByte := headByte, tracks := tracks } := by
  unfold Drive.consumeByte
  split
  · exact ⟨_, _, _, _, rfl⟩
  · rename_i b _
    obtain ⟨i, p, h⟩ := Drive.detect_form b.readByte.1 b.readByte.2.isSync
      ((x.setTrack t b.readByte.2).showByte b.readByte.1)
    exact ⟨i, { p with inb := setBit p.inb cfg.mSync (!i) }, b.readByte.1, x.tracks.set (t - 1) b.readByte.2,
      by simp only [h]; rfl⟩

/-- A consumed byte does not look at the rotation accumulator. -/
theorem Drive.consumeByte_rotAcc (cfg : Config) (t r : Nat) (x : Drive) :
    ({ x with rotAcc := r } : Drive).consumeByte cfg t =
      ({ (x.consumeByte cfg t).1 with rotAcc := r }, (x.consumeByte cfg t).2) := by
  unfold Drive.consumeByte Drive.track?
  simp only
  split
  · rfl
  · rename_i b _
    by_cases h1 : b.readByte.1 = syncByte
    · cases h2 : x.inSync <;> cases h3 : b.readByte.2.isSync <;>
        simp [Drive.detect, Drive.showByte, Drive.showSync, Drive.setTrack, h1, h2, Drive.signal]
    · simp [Drive.detect, Drive.showByte, Drive.showSync, Drive.setTrack, h1, Drive.signal]

theorem consumeMany_rotAcc (cfg : Config) (t r k : Nat) (x : Drive) :
    consumeMany cfg t k { x with rotAcc := r } =
      ({ (consumeMany cfg t k x).1 with rotAcc := r }, (consumeMany cfg t k x).2) := by
  induction k generalizing x with
  | zero => rfl
  | succ k ih => simp only [consumeMany, Drive.consumeByte_rotAcc, ih]

/-- `j + k` consumed bytes are `j` and then `k`. -/
theorem consumeMany_add (cfg : Config) (t j k : Nat) (x : Drive) :
    consumeMany cfg t (j + k) x =
      ((consumeMany cfg t k (consumeMany cfg t j x).1).1,
        (consumeMany cfg t j x).2 ++ (consumeMany cfg t k (consumeMany cfg t j x).1).2) := by
  induction j generalizing x with
  | zero => simp [consumeMany]
  | succ j ih => rw [Nat.succ_add]; simp only [consumeMany, ih]; simp

/-- The loop of Rotate: one byte for every whole cost in the accumulator, which keeps the remainder. -/
theorem Drive.rotateLoop_eq (cfg : Config) (t cost : Nat) (hc : 0 < cost) (fuel : Nat) (x : Drive)
    (h : x.rotAcc ≤ fuel) :
    Drive.rotateLoop cfg t cost fuel x =
      ({ (consumeMany cfg t (x.rotAcc / cost) x).1 with rotAcc := x.rotAcc % cost },
        (consumeMany cfg t (x.rotAcc / cost) x).2.count true) := by
  induction fuel generalizing x with
  | zero =>
    have h0 : x.rotAcc = 0 := by omega
    simp [Drive.rotateLoop, h0, consumeMany]
    rw [← h0]
  | succ fuel ih =>
    rw [Drive.rotateLoop]
    split
    · rename_i hle
      have hr : (({ x with rotAcc := x.rotAcc - cost } : Drive).consumeByte cfg t).1.rotAcc = x.rotAcc - cost := by
        rw [Drive.consumeByte_rotAcc]
      simp only
      rw [ih _ (by rw [hr]; omega), hr, Nat.div_eq_sub_div hc hle, Nat.mod_eq_sub_mod hle, consumeMany]
      simp only [Drive.consumeByte_rotAcc, consumeMany_rotAcc]
      cases (x.consumeByte cfg t).2 <;> simp [Nat.add_comm]
    · rw [Nat.div_eq_of_lt (by omega), Nat.mod_eq_of_lt (by omega)]
      rfl

/-- No cycle consumes nothing (R270). -/
@[simp] theorem Drive.rotate_zero (cfg : Config) (x : Drive) : x.rotate cfg 0 = (x, 0) := rfl

/-- A drive tick of no cycles changes nothing and signals nothing (R302). -/
@[simp] theorem Drive.ticks_zero (cfg : Config) (x : Drive) : x.ticks cfg 0 = (x, 0) := rfl

/-- Rotate of at least one cycle: nothing while the disk does not turn; else one byte for every whole cost in the
accumulator, which keeps the remainder. -/
theorem Drive.rotate_pos (cfg : Config) (n : Nat) (x : Drive) (hn : 0 < n)
    (hc : 0 < costOf cfg (headTrack x)) :
    x.rotate cfg n =
      if x.rotates cfg then
        let cost := costOf cfg (headTrack x)
        let consumed := consumeMany cfg (headTrack x) ((x.rotAcc + n) / cost) x
        ({ consumed.1 with rotAcc := (x.rotAcc + n) % cost }, consumed.2.count true)
      else (x, 0) := by
  unfold Drive.rotate
  rw [if_neg (by omega)]
  split
  · have loop := Drive.rotateLoop_eq cfg (headTrack x) (costOf cfg (headTrack x)) hc (x.rotAcc + n)
      { x with rotAcc := x.rotAcc + n } (Nat.le_refl _)
    simp only [consumeMany_rotAcc] at loop
    exact loop
  · rfl

/-- What the timers' cycles, the accumulator and a consumed byte keep, a drive tick keeps. -/
theorem Drive.ticks_induction (cfg : Config) (n : Nat) (P : Drive → Prop)
    (timers : ∀ x : Drive, P x → P { x with pic1 := x.pic1.ticks cfg n, pic2 := x.pic2.ticks cfg n })
    (acc : ∀ (x : Drive) (r : Nat), P x → P { x with rotAcc := r })
    (byte : ∀ (x : Drive) (t : Nat), P x → P (x.consumeByte cfg t).1) (x : Drive) (h : P x) :
    P (x.ticks cfg n).1 := by
  have loop : ∀ (t cost fuel : Nat) (y : Drive), P y → P (Drive.rotateLoop cfg t cost fuel y).1 := by
    intro t cost fuel
    induction fuel with
    | zero => exact fun y hy => hy
    | succ fuel ih =>
      intro y hy
      rw [Drive.rotateLoop]
      split
      · exact ih _ (byte _ t (acc _ _ hy))
      · exact hy
  unfold Drive.ticks Drive.rotate
  split
  · exact timers x h
  · split
    · exact loop _ _ _ _ (acc _ _ (timers x h))
    · exact timers x h

end Sys2Proof.Machine
end

