-- ==== Sys2Proof/Tests/Slice0.lean ====
section
/-! SUPPORT. Tests on fixed values: the refusals of WellFormed, every operation's word written out from
spec/30_encoding.md R103, one-step tests whose expected values are those of the examples of the rules and of
spec/95_test_vectors.md (V<n>), and for every statement with hypotheses a state and operands that meet them. -/

namespace Sys2Proof.Tests

set_option Elab.async false

open Sys2Proof.Machine

/-! ### Small states -/

/-- A standalone chip after reset. -/
def chip : Pic := Pic.reset 0xFF#8 0xFF#8

/-- The block after reset with standalone chip `p`. -/
def onChip (p : Pic) : State := { State.reset with chip := p }

/-- A drive after reset. -/
def drive : Drive := Drive.reset Config.default []

/-- The block after reset with drive 0 holding `x`. -/
def withDrive (x : Drive) : State := State.reset.updateDrive 0 fun _ => x

/-- A drive with a disk whose track 1 is `buf`, the head on track 1, the motor on. -/
def disk (buf : List Byte) (cursor : Nat) : Drive :=
  { drive with diskPresent := true, tracks := [⟨buf, cursor⟩], ht := 0, motor := true }

/-- A drive whose PIC2 port B outputs `v`, which the mechanics have not seen. -/
def portShows (v : Byte) : Drive := { drive with pic2 := { drive.pic2 with orb := v, ddrb := 0xFF#8 } }

/-- The next state of an operation, if there is one. -/
def after (i : Instr) (s : State) : Option State :=
  match exec i s with
  | .next t => some t
  | _ => none

/-- Why an operation is refused, if it is. -/
def refusal (i : Instr) (s : State) : Option Refusal :=
  match exec i s with
  | .refused r => some r
  | _ => none

/-- What an operation returns. -/
def answer (i : Instr) (s : State) : Option Result := (after i s).map State.result

/-- The standalone chip after an operation. -/
def chipAfter (i : Instr) (p : Pic) : Option Pic := (after i (onChip p)).map State.chip

/-- Drive 0 after an operation. -/
def driveAfter (i : Instr) (x : Drive) : Option Drive := (after i (withDrive x)).bind fun t => t.drives[0]?

/-! ### WellFormed refuses each ill-formed operand (U8, U14) -/

theorem test_wf_dec_header : Instr.wellFormed (.gcrDecHeader (List.replicate 9 0)) = false := by decide
theorem test_wf_enc_data : Instr.wellFormed (.gcrEncData (List.replicate 255 0)) = false := by decide +kernel
theorem test_wf_dec_data : Instr.wellFormed (.gcrDecData (List.replicate 326 0)) = false := by decide +kernel
theorem test_wf_insert : Instr.wellFormed (.drvInsert 0 [⟨1, 0, []⟩] 0 0) = false := by decide
theorem test_wf_build : Instr.wellFormed (.trkBuild 0 1 [⟨1, 0, [0x55]⟩] 0 0) = false := by decide
theorem test_wf_update : Instr.wellFormed (.trkUpdateSector 0 1 [⟨1, 0, List.replicate 255 0⟩] 0 0 0) = false := by
  decide +kernel
theorem test_wf_refused : refusal (.gcrDecHeader (List.replicate 9 0)) State.reset = some .operandLength ∧
    refusal (.drvInsert 0 [⟨1, 0, []⟩] 0 0) State.reset = some .imageSector := by decide +kernel

/-- R7 puts no lower bound on SECTORS(t): a track without sectors is admissible. -/
theorem test_config_empty_track : ConfigUsable { Config.default with sectors := 0 :: Config.default.sectors.drop 1 } := by
  constructor
  · constructor <;> decide +kernel
  all_goals decide +kernel

/-! ### Every operation's word, bit by bit from R103 (the fields of the row are separated by `_`) -/

theorem test_decode_rd_orb : decode ⟨.standalone, 0b00_0_0_0000#8, []⟩ = .ok (.rdOrb .standalone) := rfl
theorem test_decode_rd_ora : decode ⟨.drive 1, 0b00_0_0_0001#8, []⟩ = .ok (.rdOra (.pic1 1)) := rfl
theorem test_decode_rd_ddrb : decode ⟨.drive 0, 0b00_0_1_0010#8, []⟩ = .ok (.rdDdrb (.pic2 0)) := rfl
theorem test_decode_rd_ddra : decode ⟨.standalone, 0b00_0_0_0011#8, []⟩ = .ok (.rdDdra .standalone) := rfl
theorem test_decode_rd_t1cl : decode ⟨.drive 1, 0b00_0_0_0100#8, []⟩ = .ok (.rdT1cl (.pic1 1)) := rfl
theorem test_decode_rd_t1ch : decode ⟨.drive 0, 0b00_0_1_0101#8, []⟩ = .ok (.rdT1ch (.pic2 0)) := rfl
theorem test_decode_rd_t1ll : decode ⟨.standalone, 0b00_0_0_0110#8, []⟩ = .ok (.rdT1ll .standalone) := rfl
theorem test_decode_rd_t1lh : decode ⟨.drive 1, 0b00_0_0_0111#8, []⟩ = .ok (.rdT1lh (.pic1 1)) := rfl
theorem test_decode_rd_t2cl : decode ⟨.drive 0, 0b00_0_1_1000#8, []⟩ = .ok (.rdT2cl (.pic2 0)) := rfl
theorem test_decode_rd_t2ch : decode ⟨.standalone, 0b00_0_0_1001#8, []⟩ = .ok (.rdT2ch .standalone) := rfl
theorem test_decode_rd_sr : decode ⟨.drive 1, 0b00_0_0_1010#8, []⟩ = .ok (.rdSr (.pic1 1)) := rfl
theorem test_decode_rd_acr : decode ⟨.drive 0, 0b00_0_1_1011#8, []⟩ = .ok (.rdAcr (.pic2 0)) := rfl
theorem test_decode_rd_pcr : decode ⟨.standalone, 0b00_0_0_1100#8, []⟩ = .ok (.rdPcr .standalone) := rfl
theorem test_decode_rd_ifr : decode ⟨.drive 1, 0b00_0_0_1101#8, []⟩ = .ok (.rdIfr (.pic1 1)) := rfl
theorem test_decode_rd_ier : decode ⟨.drive 0, 0b00_0_1_1110#8, []⟩ = .ok (.rdIer (.pic2 0)) := rfl
theorem test_decode_rd_oranh : decode ⟨.standalone, 0b00_0_0_1111#8, []⟩ = .ok (.rdOranh .standalone) := rfl
theorem test_decode_wr_orb : decode ⟨.drive 1, 0b00_1_0_0000#8, [160]⟩ = .ok (.wrOrb (.pic1 1) 0xA0#8) := rfl
theorem test_decode_wr_ora : decode ⟨.drive 0, 0b00_1_1_0001#8, [161]⟩ = .ok (.wrOra (.pic2 0) 0xA1#8) := rfl
theorem test_decode_wr_ddrb : decode ⟨.standalone, 0b00_1_0_0010#8, [162]⟩ = .ok (.wrDdrb .standalone 0xA2#8) := rfl
theorem test_decode_wr_ddra : decode ⟨.drive 1, 0b00_1_0_0011#8, [163]⟩ = .ok (.wrDdra (.pic1 1) 0xA3#8) := rfl
theorem test_decode_wr_t1cl : decode ⟨.drive 0, 0b00_1_1_0100#8, [164]⟩ = .ok (.wrT1cl (.pic2 0) 0xA4#8) := rfl
theorem test_decode_wr_t1ch : decode ⟨.standalone, 0b00_1_0_0101#8, [165]⟩ = .ok (.wrT1ch .standalone 0xA5#8) := rfl
theorem test_decode_wr_t1ll : decode ⟨.drive 1, 0b00_1_0_0110#8, [166]⟩ = .ok (.wrT1ll (.pic1 1) 0xA6#8) := rfl
theorem test_decode_wr_t1lh : decode ⟨.drive 0, 0b00_1_1_0111#8, [167]⟩ = .ok (.wrT1lh (.pic2 0) 0xA7#8) := rfl
theorem test_decode_wr_t2cl : decode ⟨.standalone, 0b00_1_0_1000#8, [168]⟩ = .ok (.wrT2cl .standalone 0xA8#8) := rfl
theorem test_decode_wr_t2ch : decode ⟨.drive 1, 0b00_1_0_1001#8, [169]⟩ = .ok (.wrT2ch (.pic1 1) 0xA9#8) := rfl
theorem test_decode_wr_sr : decode ⟨.drive 0, 0b00_1_1_1010#8, [170]⟩ = .ok (.wrSr (.pic2 0) 0xAA#8) := rfl
theorem test_decode_wr_acr : decode ⟨.standalone, 0b00_1_0_1011#8, [171]⟩ = .ok (.wrAcr .standalone 0xAB#8) := rfl
theorem test_decode_wr_pcr : decode ⟨.drive 1, 0b00_1_0_1100#8, [172]⟩ = .ok (.wrPcr (.pic1 1) 0xAC#8) := rfl
theorem test_decode_wr_ifr : decode ⟨.drive 0, 0b00_1_1_1101#8, [173]⟩ = .ok (.wrIfr (.pic2 0) 0xAD#8) := rfl
theorem test_decode_wr_ier : decode ⟨.standalone, 0b00_1_0_1110#8, [174]⟩ = .ok (.wrIer .standalone 0xAE#8) := rfl
theorem test_decode_wr_oranh : decode ⟨.drive 1, 0b00_1_0_1111#8, [175]⟩ = .ok (.wrOranh (.pic1 1) 0xAF#8) := rfl
theorem test_decode_set_ca1 : decode ⟨.standalone, 0b01_0_0000_1#8, []⟩ = .ok (.setCa1 .standalone true) := rfl
theorem test_decode_set_ca2 : decode ⟨.drive 1, 0b01_0_0001_0#8, []⟩ = .ok (.setCa2 (.pic1 1) false) := rfl
theorem test_decode_set_cb1 : decode ⟨.drive 0, 0b01_1_0010_1#8, []⟩ = .ok (.setCb1 (.pic2 0) true) := rfl
theorem test_decode_set_cb2 : decode ⟨.standalone, 0b01_0_0011_0#8, []⟩ = .ok (.setCb2 .standalone false) := rfl
theorem test_decode_set_pa_in : decode ⟨.drive 0, 0b01_1_0100_0#8, [0x52]⟩ = .ok (.setPaIn (.pic2 0) 0x52#8) := rfl
theorem test_decode_set_pb_in :
    decode ⟨.standalone, 0b01_0_0101_0#8, [0x85]⟩ =
      .ok (.setPbIn .standalone 0x85#8) := rfl
theorem test_decode_tick : decode ⟨.drive 1, 0b01_0_0110_0#8, [1000]⟩ = .ok (.tick (.pic1 1) 1000) := rfl
theorem test_decode_reset_pic : decode ⟨.drive 1, 0b01_1_0111_0#8, []⟩ = .ok (.resetPic (.pic2 1)) := rfl
theorem test_decode_host_set : decode ⟨.drive 0, 0b10_000000#8, [0, 1, 2]⟩ = .ok (.hostSet false true false) := rfl
theorem test_decode_bus_update : decode ⟨.drive 0, 0b10_000001#8, []⟩ = .ok (.busUpdate) := rfl
theorem test_decode_bus_get_host_input : decode ⟨.drive 0, 0b10_000010#8, []⟩ = .ok (.busGetHostInput) := rfl
theorem test_decode_bus_tick : decode ⟨.drive 0, 0b10_000011#8, [26]⟩ = .ok (.busTick 26) := rfl
theorem test_decode_bus_attach : decode ⟨.drive 0, 0b10_000100#8, [1]⟩ = .ok (.busAttach 1) := rfl
theorem test_decode_bus_detach : decode ⟨.drive 0, 0b10_000101#8, [1]⟩ = .ok (.busDetach 1) := rfl
theorem test_decode_drv_get_clk_out : decode ⟨.drive 0, 0b10_000110#8, [1]⟩ = .ok (.drvGetClkOut 1) := rfl
theorem test_decode_drv_get_data_out : decode ⟨.drive 0, 0b10_000111#8, [1]⟩ = .ok (.drvGetDataOut 1) := rfl
theorem test_decode_drv_set_atn_in : decode ⟨.drive 0, 0b10_001000#8, [1, 0]⟩ = .ok (.drvSetAtnIn 1 false) := rfl
theorem test_decode_drv_set_clk_in : decode ⟨.drive 0, 0b10_001001#8, [1, 1]⟩ = .ok (.drvSetClkIn 1 true) := rfl
theorem test_decode_drv_set_data_in : decode ⟨.drive 0, 0b10_001010#8, [0, 1]⟩ = .ok (.drvSetDataIn 0 true) := rfl
theorem test_decode_drv_tick : decode ⟨.drive 0, 0b10_001011#8, [1, 300]⟩ = .ok (.drvTick 1 300) := rfl
theorem test_decode_drv_memrd : decode ⟨.drive 0, 0b10_001100#8, [1, 0x1BF4]⟩ = .ok (.drvMemrd 1 0x1BF4) := rfl
theorem test_decode_drv_memwr :
    decode ⟨.drive 0, 0b10_001101#8, [1, 0x1C00, 0x104]⟩ =
      .ok (.drvMemwr 1 0x1C00 0x04#8) := rfl
theorem test_decode_drv_insert :
    decode ⟨.drive 0, 0b10_001110#8, ([1, 1, 18, 2] ++ List.replicate 256 0xEE ++ [0x41, 0x42])⟩ =
      .ok (.drvInsert 1 [⟨18, 2, List.replicate 256 0xEE#8⟩] 0x41#8 0x42#8) := by decide +kernel
theorem test_decode_drv_eject : decode ⟨.drive 0, 0b10_001111#8, [1]⟩ = .ok (.drvEject 1) := rfl
theorem test_decode_drv_set_wp : decode ⟨.drive 0, 0b10_010000#8, [0, 1]⟩ = .ok (.drvSetWp 0 true) := rfl
theorem test_decode_reset : decode ⟨.drive 0, 0b10_010001#8, []⟩ = .ok (.reset) := rfl
theorem test_decode_mech_write : decode ⟨.drive 0, 0b10_010010#8, [1, 5]⟩ = .ok (.mechWrite 1 0x05#8) := rfl
theorem test_decode_gcr_enc_group :
    decode ⟨.drive 0, 0b11_000000#8, [0x12, 0x34, 0x56, 0x78]⟩ =
      .ok (.gcrEncGroup 0x12#8 0x34#8 0x56#8 0x78#8) := rfl
theorem test_decode_gcr_dec_group :
    decode ⟨.drive 0, 0b11_000001#8, [0x5C, 0xA6, 0xE7, 0xDA, 0xE9]⟩ =
      .ok (.gcrDecGroup 0x5C#8 0xA6#8 0xE7#8 0xDA#8 0xE9#8) := rfl
theorem test_decode_gcr_enc_header :
    decode ⟨.drive 0, 0b11_000010#8, [18, 0, 0x41, 0x42]⟩ =
      .ok (.gcrEncHeader 18#8 0#8 0x41#8 0x42#8) := rfl
theorem test_decode_gcr_dec_header :
    decode ⟨.drive 0, 0b11_000011#8, [1, 2, 3, 4, 5, 6, 7, 8, 9, 10]⟩ =
      .ok (.gcrDecHeader [1, 2, 3, 4, 5, 6, 7, 8, 9, 10]) := rfl
theorem test_decode_gcr_enc_data :
    decode ⟨.drive 0, 0b11_000100#8, (7 :: List.replicate 255 9)⟩ =
      .ok (.gcrEncData (7#8 :: List.replicate 255 9#8)) := by decide +kernel
theorem test_decode_gcr_dec_data :
    decode ⟨.drive 0, 0b11_000101#8, (7 :: List.replicate 324 9)⟩ =
      .ok (.gcrDecData (7#8 :: List.replicate 324 9#8)) := by decide +kernel
theorem test_decode_trk_read_byte : decode ⟨.drive 0, 0b11_000110#8, [1, 18]⟩ = .ok (.trkReadByte 1 18) := rfl
theorem test_decode_trk_write_byte :
    decode ⟨.drive 0, 0b11_000111#8, [1, 18, 0xAA]⟩ =
      .ok (.trkWriteByte 1 18 0xAA#8) := rfl
theorem test_decode_trk_is_sync : decode ⟨.drive 0, 0b11_001000#8, [1, 35]⟩ = .ok (.trkIsSync 1 35) := rfl
theorem test_decode_trk_build :
    decode ⟨.drive 0, 0b11_001001#8, [1, 18, 0, 0x41, 0x42]⟩ =
      .ok (.trkBuild 1 18 [] 0x41#8 0x42#8) := rfl
theorem test_decode_trk_update_sector :
    decode ⟨.drive 0, 0b11_001010#8, [1, 18, 0, 2, 0x41, 0x42]⟩ =
      .ok (.trkUpdateSector 1 18 [] 2 0x41#8 0x42#8) := rfl

/-- Reserved selectors, a level on a kind that takes none, the second chip of a standalone PIC, operands missing. -/
theorem test_decode_refuses :
    decode ⟨.standalone, 0b01_0_1000_0#8, []⟩ = .error .reservedSelector ∧
    decode ⟨.standalone, 0b01_0_0111_1#8, []⟩ = .error .levelNotTaken ∧
    decode ⟨.drive 0, 0b10_010011#8, []⟩ = .error .reservedSelector ∧
    decode ⟨.drive 0, 0b11_001011#8, []⟩ = .error .reservedSelector ∧
    decode ⟨.standalone, 0b00_0_1_0000#8, []⟩ = .error .standaloneSecondChip ∧
    decode ⟨.standalone, 0b00_1_0_0000#8, []⟩ = .error .operandCount := ⟨rfl, rfl, rfl, rfl, rfl, rfl⟩

/-! ### One step of every operation -/

-- V10, R133: composition, and the flags of register 0
theorem test_rd_orb : let p := { chip with orb := 0xF0#8, ddrb := 0x0F#8, inb := 0xA5#8, ifr := 0x1A#7 }
    answer (.rdOrb .standalone) (onChip p) = some (.byte 0xA0#8) ∧
    (chipAfter (.rdOrb .standalone) p).map Pic.ifr = some 0x02#7 := by decide +kernel
-- V11: latched input; V13: an independent CA2 flag stays
theorem test_rd_ora : let p := { chip with acr := 0x01#8, ila := 0x3C#8, ina := 0xC3#8, pcr := 0x02#8, ifr := 0x03#7 }
    answer (.rdOra .standalone) (onChip p) = some (.byte 0x3C#8) ∧
    (chipAfter (.rdOra .standalone) p).map Pic.ifr = some 0x01#7 := by decide +kernel
theorem test_rd_ddrb : answer (.rdDdrb .standalone) (onChip { chip with ddrb := 0x1A#8, ddra := 0x2B#8 }) =
    some (.byte 0x1A#8) := by decide +kernel
theorem test_rd_ddra : answer (.rdDdra .standalone) (onChip { chip with ddrb := 0x1A#8, ddra := 0x2B#8 }) =
    some (.byte 0x2B#8) := by decide +kernel
-- R137, V8
theorem test_rd_t1cl : let p := { chip with t1c := 0x1234#16, ifr := 0x60#7 }
    answer (.rdT1cl .standalone) (onChip p) = some (.byte 0x34#8) ∧
    chipAfter (.rdT1cl .standalone) p = some { p with ifr := 0x20#7 } := by decide +kernel
theorem test_rd_t1ch : let p := { chip with t1c := 0x1234#16, ifr := 0x60#7 }
    answer (.rdT1ch .standalone) (onChip p) = some (.byte 0x12#8) ∧ chipAfter (.rdT1ch .standalone) p = some p := by
  decide +kernel
theorem test_rd_t1ll : let p := { chip with t1l := 0x1234#16, ifr := 0x60#7 }
    answer (.rdT1ll .standalone) (onChip p) = some (.byte 0x34#8) ∧ chipAfter (.rdT1ll .standalone) p = some p := by
  decide +kernel
theorem test_rd_t1lh : answer (.rdT1lh .standalone) (onChip { chip with t1l := 0x1234#16 }) = some (.byte 0x12#8) := by
  decide +kernel
-- R141, V25
theorem test_rd_t2cl : let p := { chip with t2c := 0x00FE#16, ifr := 0x60#7 }
    answer (.rdT2cl .standalone) (onChip p) = some (.byte 0xFE#8) ∧
    chipAfter (.rdT2cl .standalone) p = some { p with ifr := 0x40#7 } := by decide +kernel
theorem test_rd_t2ch : answer (.rdT2ch .standalone) (onChip { chip with t2c := 0xAB12#16 }) = some (.byte 0xAB#8) := by
  decide +kernel
-- R143
theorem test_rd_sr : let p := { chip with sr := 0x3C#8, ifr := 0x7F#7 }
    answer (.rdSr .standalone) (onChip p) = some (.byte 0x3C#8) ∧
    chipAfter (.rdSr .standalone) p = some { p with ifr := 0x7B#7, srCnt := 8 } := by decide +kernel
theorem test_rd_acr : answer (.rdAcr .standalone) (onChip { chip with acr := 0x41#8 }) = some (.byte 0x41#8) := by
  decide +kernel
theorem test_rd_pcr : answer (.rdPcr .standalone) (onChip { chip with pcr := 0xEE#8 }) = some (.byte 0xEE#8) := by
  decide +kernel
-- R146, V14
theorem test_rd_ifr : answer (.rdIfr .standalone) (onChip { chip with ifr := 0x42#7, ier := 0x40#7 }) =
      some (.byte 0xC2#8) ∧
    answer (.rdIfr .standalone) (onChip { chip with ifr := 0x42#7, ier := 0x01#7 }) = some (.byte 0x42#8) := by
  decide +kernel
-- R147
theorem test_rd_ier : answer (.rdIer .standalone) (onChip { chip with ier := 0x02#7 }) = some (.byte 0x82#8) := by
  decide +kernel
-- R148, V13
theorem test_rd_oranh : let p := { chip with ina := 0x52#8, ifr := 0x03#7 }
    answer (.rdOranh .standalone) (onChip p) = some (.byte 0x52#8) ∧
    chipAfter (.rdOranh .standalone) p = some p := by decide +kernel
-- V13
theorem test_wr_orb : let p := { chip with pcr := 0x20#8, ifr := 0x18#7 }
    chipAfter (.wrOrb .standalone 0x5A#8) p = some { p with orb := 0x5A#8, ifr := 0x08#7 } := by decide +kernel
-- V82: the direction register gates the port
theorem test_wr_orb_pic2_input : (driveAfter (.wrOrb (.pic2 0) 0x05#8) drive).map (fun x => (x.ht, x.motor)) =
    some (34, false) := by decide +kernel
theorem test_wr_ora : chipAfter (.wrOra .standalone 0xFF#8) { chip with ifr := 0x03#7 } =
    some { chip with ora := 0xFF#8, ifr := 0 } := by decide +kernel
-- V82: then the direction register is written
theorem test_wr_ddrb : (driveAfter (.wrDdrb (.pic2 0) 0x0F#8) { drive with pic2 := { drive.pic2 with orb := 0x05#8 } }).map
    (fun x => (x.ht, x.phase, x.motor, x.led)) = some (35, 1#2, true, false) := by decide +kernel
theorem test_wr_ddra : chipAfter (.wrDdra .standalone 0xAA#8) chip = some { chip with ddra := 0xAA#8 } := by
  decide +kernel
-- R153
theorem test_wr_t1cl : chipAfter (.wrT1cl .standalone 0x05#8) { chip with t1l := 0x1200#16 } =
    some { chip with t1l := 0x1205#16 } := by decide +kernel
-- R154, V22, V23
theorem test_wr_t1ch : let p := { chip with t1l := 0x1205#16, t1c := 7#16, ifr := 0x60#7, acr := 0x80#8 }
    chipAfter (.wrT1ch .standalone 0x00#8) p =
      some { p with t1l := 5#16, t1c := 5#16, t1Run := true, ifr := 0x20#7, pb7Out := false } := by decide +kernel
-- R155
theorem test_wr_t1ll : let p := { chip with t1c := 5#16, t1Run := true, t1l := 5#16 }
    chipAfter (.wrT1ll .standalone 0x10#8) p = some { p with t1l := 0x10#16 } := by decide +kernel
-- V16: running and stopped
theorem test_wr_t1lh_running : let p := { chip with t1c := 3#16, t1l := 0x10#16, t1Run := true, ifr := 0x40#7 }
    chipAfter (.wrT1lh .standalone 0x01#8) p = some { p with t1l := 0x110#16, t1c := 0x110#16, ifr := 0 } := by
  decide +kernel
theorem test_wr_t1lh_stopped : let p := { chip with t1c := 3#16, t1l := 0x10#16, ifr := 0x40#7 }
    chipAfter (.wrT1lh .standalone 0x01#8) p = some { p with t1l := 0x110#16, ifr := 0 } := by decide +kernel
theorem test_wr_t2cl : chipAfter (.wrT2cl .standalone 0x20#8) { chip with t2l := 0x1200#16 } =
    some { chip with t2l := 0x1220#16 } := by decide +kernel
-- R158
theorem test_wr_t2ch : let p := { chip with t2l := 0x0020#16, ifr := 0x60#7 }
    chipAfter (.wrT2ch .standalone 0x00#8) p = some { p with t2c := 0x20#16, t2Run := true, ifr := 0x40#7 } := by
  decide +kernel
-- V17
theorem test_wr_sr : chipAfter (.wrSr .standalone 0xA7#8) { chip with ifr := 0x06#7 } =
    some { chip with sr := 0xA7#8, srCnt := 8, ifr := 0x02#7 } := by decide +kernel
theorem test_wr_acr : chipAfter (.wrAcr .standalone 0xFF#8) chip = some { chip with acr := 0xFF#8 } := by decide +kernel
theorem test_wr_pcr : chipAfter (.wrPcr .standalone 0xEE#8) chip = some { chip with pcr := 0xEE#8 } := by decide +kernel
-- R162; bit 7 is ignored (V14)
theorem test_wr_ifr : chipAfter (.wrIfr .standalone 0xC0#8) { chip with ifr := 0x62#7 } =
    some { chip with ifr := 0x22#7 } := by decide +kernel
-- R163: set, then clear
theorem test_wr_ier : chipAfter (.wrIer .standalone 0xC2#8) chip = some { chip with ier := 0x42#7 } ∧
    chipAfter (.wrIer .standalone 0x02#8) { chip with ier := 0x42#7 } = some { chip with ier := 0x40#7 } := by
  decide +kernel
-- V19
theorem test_wr_oranh : chipAfter (.wrOranh .standalone 0x5A#8) { chip with ifr := 0x03#7 } =
    some { chip with ora := 0x5A#8, ifr := 0x03#7 } := by decide +kernel
-- V34: the latch is rewritten on every active edge
theorem test_set_ca1 : let p := { chip with pcr := 0x01#8, acr := 0x01#8, ina := 0x11#8, ifr := 0x02#7 }
    chipAfter (.setCa1 .standalone true) p = some { p with ila := 0x11#8, ca1Prev := true } := by decide +kernel
-- V30: the first level after reset is no edge under the negative polarity
theorem test_set_ca1_first : chipAfter (.setCa1 .standalone true) chip = some { chip with ca1Prev := true } := by
  decide +kernel
-- V32
theorem test_set_ca2 : (chipAfter (.setCa2 .standalone true) { chip with pcr := 0x04#8 }).map Pic.ifr = some 0x01#7 ∧
    (chipAfter (.setCa2 .standalone true) { chip with pcr := 0x0C#8 }).map Pic.ifr = some 0 := by decide +kernel
-- V33, V12
theorem test_set_cb1 : let p := { chip with cb1Prev := true, acr := 0x02#8, inb := 0x99#8 }
    chipAfter (.setCb1 .standalone false) p = some { p with ifr := 0x10#7, ilb := 0x99#8, cb1Prev := false } := by
  decide +kernel
-- V33
theorem test_set_cb2 : (chipAfter (.setCb2 .standalone true) { chip with pcr := 0x40#8 }).map Pic.ifr = some 0x08#7 ∧
    (chipAfter (.setCb2 .standalone false) { chip with pcr := 0xE0#8, cb2Prev := true }).map Pic.ifr = some 0 := by
  decide +kernel
theorem test_set_pa_in : chipAfter (.setPaIn .standalone 0x52#8) chip = some { chip with ina := 0x52#8 } := by
  decide +kernel
theorem test_set_pb_in : chipAfter (.setPbIn .standalone 0x85#8) chip = some { chip with inb := 0x85#8 } := by
  decide +kernel
-- V6, R175: one-shot and continuous
theorem test_tick_one_shot : let p := { chip with t1l := 0x10#16, t1c := 5#16, t1Run := true }
    chipAfter (.tick .standalone 16) p = some { p with t1c := 0xFFFF#16, t1Run := false, ifr := 0x40#7 } := by
  decide +kernel
theorem test_tick_continuous : let p := { chip with t1l := 0x10#16, t1c := 5#16, t1Run := true, acr := 0x40#8 }
    chipAfter (.tick .standalone 16) p = some { p with ifr := 0x40#7 } := by decide +kernel
-- V91
theorem test_reset_pic : chipAfter (.resetPic .standalone) { chip with
      ina := 0x12#8, inb := 0x34#8, ifr := 0x7F#7, ier := 0x7F#7, t1Run := true, t2c := 9#16, t2Run := true } =
    some (Pic.reset 0x12#8 0x34#8) := by decide +kernel
-- V86
theorem test_reset_pic2 : (driveAfter (.resetPic (.pic2 0)) { drive with ht := 35, phase := 1#2, motor := true }).map
    (fun x => (x.ht, x.phase, x.motor, x.led)) = some (34, 0#2, false, false) := by decide +kernel
theorem test_host_set : (after (.hostSet false true true) State.reset).map State.bus = some ⟨false, true, true, []⟩ := by
  decide +kernel
-- PROG2 step 8: ATN asserted reaches CA1 with the positive edge
theorem test_bus_update : let x := { drive with pic1 := { drive.pic1 with pcr := 0x01#8 } }
    (after .busUpdate { withDrive x with bus := ⟨false, true, true, [0]⟩ }).map (fun t =>
      t.drives.map fun y => (y.atnIn, y.pic1.inb, y.pic1.ifr)) =
    some [(true, 0x9A#8, 0x02#7), (false, 0x1A#8, 0)] := by decide +kernel
-- PROG2 step 11: live, before any update
theorem test_bus_get_host_input : let x := { drive with pic1 := { drive.pic1 with orb := 0x02#8, ddrb := 0x1A#8 } }
    answer .busGetHostInput { withDrive x with bus := ⟨false, true, true, [0]⟩ } = some (.lines true false) ∧
    answer .busGetHostInput (withDrive x) = some (.lines true true) := by decide +kernel
-- R210: one byte of track 1
theorem test_bus_tick : (after (.busTick 26) { withDrive (disk [0x55, 0x52] 0) with bus := ⟨true, true, true, [0]⟩ }).map
    (fun t => (t.drives.map Drive.headByte, t.trace)) = some ([0x55#8, 0x00#8], [.setOverflow 0]) := by decide +kernel
theorem test_bus_attach : (after (.busAttach 0) { State.reset with bus := ⟨true, true, true, [1]⟩ }).map
    (fun t => t.bus.attached) = some [0, 1] := by decide +kernel
theorem test_bus_detach : (after (.busDetach 0) { State.reset with bus := ⟨true, true, true, [0, 1]⟩ }).map
    (fun t => t.bus.attached) = some [1] := by decide +kernel
-- V50
theorem test_drv_get_clk_out : let x := { drive with pic1 := { drive.pic1 with orb := 0x02#8, ddrb := 0x1A#8 } }
    answer (.drvGetClkOut 0) (withDrive x) = some (.level true) := by decide +kernel
theorem test_drv_get_data_out : let x := { drive with pic1 := { drive.pic1 with orb := 0x02#8, ddrb := 0x1A#8 } }
    answer (.drvGetDataOut 0) (withDrive x) = some (.level false) := by decide +kernel
-- V51
theorem test_drv_set_atn_in : (driveAfter (.drvSetAtnIn 0 false) drive).map
    (fun x => (x.atnIn, x.pic1.inb, x.pic1.ca1Prev)) = some (true, 0x9A#8, true) := by decide +kernel
theorem test_drv_set_clk_in : (driveAfter (.drvSetClkIn 0 false) drive).map
    (fun x => (x.clkIn, x.pic1.inb, x.pic1.ca1Prev)) = some (true, 0x1E#8, false) := by decide +kernel
theorem test_drv_set_data_in : (driveAfter (.drvSetDataIn 0 false) drive).map
    (fun x => (x.dataIn, x.pic1.inb, x.pic1.ca1Prev)) = some (true, 0x1B#8, false) := by decide +kernel
-- V60: the isolated sync byte and the run, eight bytes in one tick; the run of three gives no event
theorem test_drv_tick : (after (.drvTick 0 208)
      (withDrive (disk [0x55, 0xFF, 0x52, 0xFF, 0xFF, 0xFF, 0x08, 0x55] 0))).map
    (fun t => (t.trace.length, t.drives.map Drive.inSync)) = some (5, [false, false]) := by decide +kernel
-- V63: the remainder is kept; R302: no cycle is no change, also at an accumulator of the cost
theorem test_drv_tick_remainder : (driveAfter (.drvTick 0 10) { disk [0x55, 0x52] 0 with rotAcc := 20 }).map
      (fun x => (x.rotAcc, x.headByte)) = some (4, 0x55#8) ∧
    driveAfter (.drvTick 0 0) { disk [0x55, 0x52] 0 with rotAcc := 27 } =
      some { disk [0x55, 0x52] 0 with rotAcc := 27 } := by decide +kernel
-- V84
theorem test_drv_memrd : let x := { drive with pic1 := { drive.pic1 with t1c := 0x1234#16, ifr := 0x40#7 } }
    answer (.drvMemrd 0 0x1BF4) (withDrive x) = some (.byte 0x34#8) ∧
    (driveAfter (.drvMemrd 0 0x1BF4) x).map (fun y => y.pic1.ifr) = some 0 := by decide +kernel
theorem test_drv_memrd_unmapped : answer (.drvMemrd 0 0x0800) State.reset = some (.byte 0xFF#8) ∧
    answer (.drvMemrd 0 0xBFFF) State.reset = some (.byte 0xFF#8) := by decide +kernel
theorem test_drv_memwr : (after (.drvMemwr 0 0x0123 0x5A#8) State.reset).bind (answer (.drvMemrd 0 0x0123)) =
    some (.byte 0x5A#8) := by decide +kernel
theorem test_drv_memwr_dropped : driveAfter (.drvMemwr 0 0xC000 0x12#8) drive = some drive ∧
    (driveAfter (.drvMemwr 0 0x1FF3 0xFF#8) drive).map (fun x => x.pic2.ddra) = some 0xFF#8 := by decide +kernel
-- R295: the identifier, the cursor and the head's track after an insert
theorem test_drv_insert : let s := { withDrive (disk [] 0) with cfg := { Config.default with
      numTracks := 1, sectors := [0], trackSize := [1, 2, 3, 4] } }
    ((after (.drvInsert 0 [] 0x41#8 0x42#8) s).bind fun t => t.drives[0]?).map
      (fun x => (x.diskPresent, x.diskId1, x.diskId2, x.tracks)) =
    some (true, 0x41#8, 0x42#8, [⟨[0x55#8, 0x55#8, 0x55#8, 0x55#8], 0⟩]) := by decide +kernel
-- V75
theorem test_drv_eject : let x := { disk [0x55] 0 with inSync := true, rotAcc := 9 }
    (driveAfter (.drvEject 0) x).map (fun y => (y.diskPresent, y.inSync, y.rotAcc, y.tracks)) =
    some (false, false, 0, []) := by decide +kernel
-- V83: bit 4 is 0 when protected
theorem test_drv_set_wp : (driveAfter (.drvSetWp 0 true) drive).map (fun x => (x.writeProtect, x.pic2.inb)) =
    some (true, 0xEF#8) := by decide +kernel
-- V90
theorem test_reset : (after .reset (onChip { chip with ifr := 0x7F#7 })).map
    (fun t => (t.chip.ifr, t.drives.map fun x => (x.pic1.inb, x.pic2.inb, x.ht))) =
    some (0, [(0x1A#8, 0xFF#8, 34), (0x1A#8, 0xFF#8, 34)]) := by decide +kernel
-- R290, with V80's value on port B; U11: another value than port B's, also where the bits beside it are only inputs
theorem test_mech_write : (driveAfter (.mechWrite 0 0x05#8) (portShows 0x05#8)).map
    (fun x => (x.ht, x.phase, x.motor, x.led)) = some (35, 1#2, true, false) := by decide +kernel
theorem test_mech_write_refused : refusal (.mechWrite 0 0x05#8) State.reset = some .mechPortValue ∧
    refusal (.mechWrite 0 0xF5#8) (withDrive { drive with pic2 := { drive.pic2 with orb := 0xF5#8, ddrb := 0x0F#8 } }) =
      some .mechPortValue := by decide +kernel
-- V1, V36
theorem test_gcr_enc_group : answer (.gcrEncGroup 0x12#8 0x34#8 0x56#8 0x78#8) State.reset =
      some (.bytes [0x5C#8, 0xA6#8, 0xE7#8, 0xDA#8, 0xE9#8]) ∧
    answer (.gcrEncGroup 0x00#8 0x05#8 0xE0#8 0x00#8) State.reset =
      some (.bytes [0x52#8, 0x94#8, 0xFF#8, 0x29#8, 0x4A#8]) := by decide +kernel
-- V1, V37
theorem test_gcr_dec_group : answer (.gcrDecGroup 0x5C#8 0xA6#8 0xE7#8 0xDA#8 0xE9#8) State.reset =
    some (.group [0x12#8, 0x34#8, 0x56#8, 0x78#8] false) := by decide +kernel
theorem test_gcr_dec_group_invalid : (after (.gcrDecGroup 0x52#8 0x94#8 0x5A#8 0x29#8 0x4A#8) State.reset).map
    (fun t => (t.result, t.trace)) = some (.group [0, 0, 0, 0] true, [.gcrDiag]) := by decide +kernel
-- V2
theorem test_gcr_enc_header : answer (.gcrEncHeader 18#8 0#8 0x41#8 0x42#8) State.reset =
    some (.bytes [0x52#8, 0x56#8, 0xB5#8, 0x29#8, 0x72#8, 0x74#8, 0x9C#8, 0xB5#8, 0x55#8, 0x55#8]) := by decide +kernel
-- V39: a damaged checksum; a damaged pad byte
theorem test_gcr_dec_header : answer (.gcrDecHeader [0x52, 0x56, 0xB5, 0x2D, 0x72, 0x74, 0x9C, 0xB5, 0x55, 0x55])
    State.reset = some (.header 18#8 1#8 0x41#8 0x42#8 false false) := by decide +kernel
theorem test_gcr_dec_header_pad : answer (.gcrDecHeader [0x52, 0x56, 0xB5, 0x29, 0x72, 0x74, 0x9C, 0xB5, 0x55, 0x00])
    State.reset = some (.header 18#8 0#8 0x41#8 0x42#8 true true) := by decide +kernel
-- V44
theorem test_gcr_enc_data : answer (.gcrEncData (List.replicate 256 0)) State.reset =
    some (.bytes ([0x55#8, 0xD4#8, 0xA5#8, 0x29#8, 0x4A#8] ++
      (List.replicate 64 [0x52#8, 0x94#8, 0xA5#8, 0x29#8, 0x4A#8]).flatten)) := by decide +kernel
-- V43: byte 6 changed from 94 to 96
theorem test_gcr_dec_data : answer (.gcrDecData ([0x55, 0xD4, 0xA5, 0x29, 0x4A, 0x52, 0x96, 0xA5, 0x29, 0x4A] ++
      (List.replicate 63 [0x52#8, 0x94#8, 0xA5#8, 0x29#8, 0x4A#8]).flatten)) State.reset =
    some (.data ([0, 0, 0, 0, 0x10] ++ List.replicate 251 0) false false) := by decide +kernel
-- V65
theorem test_trk_read_byte : let s := withDrive (disk [0x55, 0xFF, 0xFF, 0x52] 3)
    answer (.trkReadByte 0 1) s = some (.byte 0x52#8) ∧
    (driveAfter (.trkReadByte 0 1) (disk [0x55, 0xFF, 0xFF, 0x52] 3)).map Drive.tracks =
      some [⟨[0x55#8, 0xFF#8, 0xFF#8, 0x52#8], 0⟩] := by decide +kernel
theorem test_trk_write_byte : (driveAfter (.trkWriteByte 0 1 0xAA#8) (disk [0x55, 0xFF, 0xFF, 0x52] 1)).map Drive.tracks =
    some [⟨[0x55#8, 0xAA#8, 0xFF#8, 0x52#8], 2⟩] := by decide +kernel
theorem test_trk_is_sync : answer (.trkIsSync 0 1) (withDrive (disk [0x55, 0xFF, 0xFF, 0x52] 3)) = some (.level false) ∧
    answer (.trkIsSync 0 1) (withDrive (disk [0x55, 0xFF, 0xFF, 0x52] 1)) = some (.level true) := by decide +kernel
-- R267, R264: sync run, then the header of track 1, sector 0 (record 08 02 00 01, codes 01010 01001 01010 10010), padding
theorem test_trk_build : let s := { withDrive (disk [0x00] 0) with cfg := { Config.default with
      sectors := [1], trackSize := [0, 0, 0, 374] } }
    (((after (.trkBuild 0 1 [] 0x41#8 0x42#8) s).bind fun t => t.drives[0]?).bind fun x => x.tracks[0]?).map
      (fun b => (b.buf.length, b.buf.take 7, b.buf.drop 372, b.cursor)) =
    some (374, [0xFF#8, 0xFF#8, 0xFF#8, 0xFF#8, 0xFF#8, 0x52#8, 0x55#8], [0x55#8, 0x55#8], 0) := by decide +kernel
-- V73: a truncated build emits one event
theorem test_trk_build_truncated : let s := { withDrive (disk [0x00] 0) with cfg := { Config.default with
      sectors := [1], trackSize := [0, 0, 0, 9] } }
    (after (.trkBuild 0 1 [] 0x41#8 0x42#8) s).map State.trace = some [.trackOverflowDiag] := by decide +kernel
-- R266, V74: sector 2 is bytes 744 to 1115
theorem test_trk_update_sector :
    ((driveAfter (.trkUpdateSector 0 1 [] 2 0x41#8 0x42#8) (disk (List.replicate 1200 0x00) 7)).bind
      fun x => x.tracks[0]?).map (fun b => (b.buf.length, b.buf.extract 742 746, b.buf.extract 1114 1118, b.cursor)) =
    some (1200, [0x00#8, 0x00#8, 0xFF#8, 0xFF#8], [0x55#8, 0x55#8, 0x00#8, 0x00#8], 7) := by decide +kernel

/-! ### For every statement with hypotheses, a state and operands that meet them, each clause at its boundary -/

/-- The block after reset with both drives attached. -/
def attached : State := { State.reset with bus := ⟨true, true, true, [0, 1]⟩ }

/-- A drive whose mechanics port drives phase 1 with the motor on. -/
def running : Drive :=
  { drive with pic2 := { drive.pic2 with orb := 0x05#8, ddrb := 0x0F#8 }, ht := 35, phase := 1#2, motor := true }

/-- One image sector of 256 bytes 7. -/
def image : Image := [⟨1, 0, List.replicate 256 7#8⟩]

theorem witness_DecodeOfEncodeIsTheOperation : Instr.wellFormed (.gcrDecData (List.replicate 325 0xFF#8)) = true ∧
    Instr.wellFormed (.trkUpdateSector 1 35 image 20 0 0) = true ∧ Instr.wellFormed (.wrOranh (.pic2 1) 0xFF#8) = true := by
  decide +kernel

theorem witness_SelectorsDecodeExactlyAsTheMapSays :
    decode ⟨.drive 0, 0x92#8, [1, 5]⟩ = .ok (.mechWrite 1 0x05#8) ∧
    (∀ opsel ∈ [0x49#8, 0x4F#8, 0x50#8, 0x5F#8, 0x69#8, 0x70#8, 0x7F#8, 0x93#8, 0xBF#8, 0xCB#8, 0xFF#8],
      ((64 ≤ opsel.toNat ∧ opsel.toNat < 128 ∧
          (8 ≤ opsel.toNat % 32 / 2 ∨ (4 ≤ opsel.toNat % 32 / 2 ∧ opsel.toNat % 2 = 1))) ∨
        (147 ≤ opsel.toNat ∧ opsel.toNat < 192) ∨ 203 ≤ opsel.toNat) ∧
      ({ State.reset with pending := [⟨.drive 0, opsel, []⟩] } : State).pending = ⟨.drive 0, opsel, []⟩ :: []) ∧
    ∀ opsel ∈ [0x00#8, 0x3F#8, 0x40#8, 0x47#8, 0x48#8, 0x4E#8, 0x6E#8, 0x80#8, 0x92#8, 0xC0#8, 0xCA#8],
      ¬ ((64 ≤ opsel.toNat ∧ opsel.toNat < 128 ∧
          (8 ≤ opsel.toNat % 32 / 2 ∨ (4 ≤ opsel.toNat % 32 / 2 ∧ opsel.toNat % 2 = 1))) ∨
        (147 ≤ opsel.toNat ∧ opsel.toNat < 192) ∨ 203 ≤ opsel.toNat) := by decide +kernel

theorem witness_StepRunsTheNextRequest :
    let r : Request := ⟨.drive 0, 0x81#8, []⟩
    let e : Request := ⟨.drive 0, 0x93#8, []⟩
    ({ State.reset with pending := [r] } : State).pending = r :: [] ∧ decode r = .ok .busUpdate ∧
    ({ State.reset with pending := [e] } : State).pending = e :: [] ∧ decode e = .error .reservedSelector ∧
    State.reset.pending = [] ∧ decodeTableWord 8 0x81 = some .busUpdate := ⟨rfl, rfl, rfl, rfl, rfl, rfl⟩

theorem witness_OperationsCompleteExactlyInTheirDomain :
    inDomain (.busAttach 1) State.reset ∧ ¬ inDomain (.busAttach 2) State.reset ∧
    inDomain (.trkReadByte 0 1) (withDrive (disk [0x55#8] 0)) ∧ ¬ inDomain (.trkReadByte 0 0) State.reset ∧
    inDomain (.gcrEncData (List.replicate 256 0)) State.reset ∧
    ¬ inDomain (.gcrEncData (List.replicate 255 0)) State.reset ∧
    inDomain (.mechWrite 0 0x05#8) (withDrive (portShows 0x05#8)) ∧ ¬ inDomain (.mechWrite 0 0x05#8) State.reset := by
  refine ⟨?_, ?_, ⟨by decide, _, _, rfl, rfl, rfl⟩, fun h => absurd h.1 (by decide), ?_, ?_, ⟨_, rfl, by decide⟩, ?_⟩
  · exact (by decide : 1 < 2)
  · exact (by decide : ¬ 2 < 2)
  · exact (List.length_replicate : (List.replicate 256 (0 : Byte)).length = 256)
  · intro h; exact absurd (h.symm.trans List.length_replicate) (by decide)
  · rintro ⟨x, hx, hv⟩
    obtain rfl : drive = x := Option.some.inj hx
    exact absurd hv (by decide)

theorem witness_RefusalsNameTheirReason :
    refusal (.busAttach 2) State.reset = some .noSuchDrive ∧
    refusal (.trkIsSync 0 0) (withDrive (disk [0x55] 0)) = some .noSuchTrack ∧
    refusal (.trkIsSync 0 36) (withDrive (disk [0x55] 0)) = some .noSuchTrack ∧
    refusal (.trkIsSync 0 35) State.reset = some .noDisk ∧
    refusal (.trkUpdateSector 0 1 [] 21 0 0) (withDrive (disk [0x55] 0)) = some .noSuchSector ∧
    refusal (.gcrDecData (List.replicate 324 0)) State.reset = some .operandLength ∧
    refusal (.drvInsert 0 [⟨1, 0, [0x55]⟩] 0 0) State.reset = some .imageSector ∧
    refusal (.mechWrite 0 0x01#8) State.reset = some .mechPortValue := by decide +kernel

/-- The three kinds of chip of the statements on register accesses and control lines. -/
theorem witness_chips : (onChip chip).chipAt .standalone = some chip ∧
    State.reset.chipAt (.pic1 0) = some drive.pic1 ∧ State.reset.chipAt (.pic2 1) = some drive.pic2 ∧
    State.reset.chipAt (.pic1 2) = none := by decide +kernel

/-- Port B's secondary flag is cleared in every mode but the two independent ones. -/
theorem witness_RdOrbReturnsPortBAndClearsItsFlags :
    (onChip { chip with pcr := 0x20#8 }).chipAt .standalone = some { chip with pcr := 0x20#8 } ∧
    portFlags 4 3 ((0x20#8).extractLsb' 5 3) = [4] ∧ portFlags 4 3 ((0x60#8).extractLsb' 5 3) = [4] ∧
    portFlags 4 3 ((0x00#8).extractLsb' 5 3) = [4, 3] ∧ portFlags 4 3 ((0xE0#8).extractLsb' 5 3) = [4, 3] := by
  decide +kernel

theorem witness_RdOraAndRdOranhReturnPortA :
    (onChip { chip with pcr := 0x06#8 }).chipAt .standalone = some { chip with pcr := 0x06#8 } ∧
    portFlags 1 0 ((0x02#8).extractLsb' 1 3) = [1] ∧ portFlags 1 0 ((0x06#8).extractLsb' 1 3) = [1] ∧
    portFlags 1 0 ((0x04#8).extractLsb' 1 3) = [1, 0] := by decide +kernel

theorem witness_PlainRegisterReadsReturnTheirByte :
    (onChip { chip with ier := 0x7F#7 }).chipAt .standalone = some { chip with ier := 0x7F#7 } := by decide +kernel

theorem witness_CounterAndShiftReadsClearTheirFlag :
    (onChip { chip with ifr := 0x7F#7 }).chipAt .standalone = some { chip with ifr := 0x7F#7 } := by decide +kernel

theorem witness_RdIfrReturnsTheFlagsAndTheAnyBit : let p := { chip with ifr := 0x40#7, ier := 0x40#7 }
    (onChip p).chipAt .standalone = some p ∧ p.irq = true ∧ ({ p with ier := 0x3F#7 } : Pic).irq = false := by
  decide +kernel

theorem witness_PortAWritesStoreTheByte :
    (onChip { chip with ifr := 0x03#7 }).chipAt .standalone = some { chip with ifr := 0x03#7 } := by decide +kernel

theorem witness_PortBWritesStoreTheByteAndPic2DrivesTheMechanics :
    (withDrive running).chipAt (.pic2 0) = some running.pic2 ∧ (withDrive running).drives[0]? = some running ∧
    (withDrive running).chipAt (.pic1 0) = some running.pic1 ∧ ChipRef.second (.pic1 0) = false ∧
    ChipRef.second .standalone = false := by decide +kernel

theorem witness_LowByteWritesReachTheLatchOnly :
    (onChip { chip with t1l := 0xFFFF#16 }).chipAt .standalone = some { chip with t1l := 0xFFFF#16 } := by decide +kernel

theorem witness_HighByteWritesLoadTheTimer :
    (onChip { chip with t1Run := true, acr := 0x80#8 }).chipAt .standalone =
      some { chip with t1Run := true, acr := 0x80#8 } := by decide +kernel

theorem witness_ShiftAndControlWritesStoreTheByte :
    (onChip { chip with ifr := 0x04#7 }).chipAt .standalone = some { chip with ifr := 0x04#7 } := by decide +kernel

theorem witness_WrIfrClearsFlagsAndWrIerSetsOrClearsEnables :
    (onChip { chip with ier := 0x55#7 }).chipAt .standalone = some { chip with ier := 0x55#7 } := by decide +kernel

/-- An active edge of each polarity, with and without latching, and a report that is no active edge. -/
theorem witness_ControlLinesFlagAndLatchOnTheirActiveEdge :
    let p := { chip with pcr := 0x11#8, acr := 0x01#8, ca2Prev := true, cb2Prev := true }
    (onChip p).chipAt .standalone = some p ∧
    isActiveEdge (p.pcr.getLsbD 0) p.ca1Prev true ∧ p.acr.getLsbD 0 = true ∧
    isActiveEdge (p.pcr.getLsbD 4) p.cb1Prev true ∧ ¬ p.acr.getLsbD 1 = true ∧
    ¬ isActiveEdge (p.pcr.getLsbD 0) p.ca1Prev false ∧
    (p.pcr.getLsbD 3 = false ∧ isActiveEdge (p.pcr.getLsbD 2) p.ca2Prev false) ∧
    (p.pcr.getLsbD 7 = false ∧ isActiveEdge (p.pcr.getLsbD 6) p.cb2Prev false) := by
  unfold isActiveEdge; decide +kernel

theorem witness_PortInputOperationsSetTheLivePins : State.reset.chipAt (.pic1 1) = some drive.pic1 := by decide +kernel

theorem witness_TickRepeatsTheSingleCycle :
    (onChip { chip with t1Run := true }).chipAt .standalone = some { chip with t1Run := true } := by decide +kernel

/-- `n` at the count and one past it, and a timer that does not run. -/
theorem witness_Timer1UnderflowsExactlyPastItsCount : let p := { chip with t1Run := true, t1c := 5#16 }
    (onChip p).chipAt .standalone = some p ∧ p.t1Run = true ∧ 5 ≤ p.t1c.toNat ∧ p.t1c.toNat < 6 ∧
    (onChip chip).chipAt .standalone = some chip ∧ chip.t1Run = false := by decide +kernel

/-- One-shot; continuous at 0; continuous with the first and the last `n` of the period. -/
theorem witness_Timer1UnderflowStopsOrReloadsWithOvershoot :
    let p := { chip with t1Run := true, t1c := 5#16 }
    let q := { chip with t1Run := true, t1c := 5#16, t1l := 16#16, acr := 0x40#8 }
    (onChip p).chipAt .standalone = some p ∧ p.t1Run = true ∧ p.acr.getLsbD 6 = false ∧ p.t1c.toNat < 6 ∧
    (onChip { q with t1c := 0#16 }).chipAt .standalone = some { q with t1c := 0#16 } ∧
    (onChip q).chipAt .standalone = some q ∧ q.t1Run = true ∧ q.acr.getLsbD 6 = true ∧
    (onChip q).cfg.tReloadAdj = 0 ∧ (q.t1c.toNat < 6 ∧ 6 ≤ q.t1c.toNat + q.t1l.toNat) ∧
    (q.t1c.toNat < 21 ∧ 21 ≤ q.t1c.toNat + q.t1l.toNat) := by decide +kernel

theorem witness_Timer2IsOneShot : let p := { chip with t2Run := true, t2c := 2#16, acr := 0x20#8 }
    (onChip p).chipAt .standalone = some p ∧ p.t2Run = true ∧ 2 ≤ p.t2c.toNat ∧ p.t2c.toNat < 3 ∧
    (onChip chip).chipAt .standalone = some chip ∧ chip.t2Run = false := by decide +kernel

theorem witness_ResetPicClearsTheChipAndKeepsItsPins :
    (withDrive running).chipAt (.pic2 0) = some running.pic2 ∧ (withDrive running).drives[0]? = some running ∧
    (onChip chip).chipAt .standalone = some chip ∧ ChipRef.second .standalone = false := by decide +kernel

/-- The default bit numbers, under which the table gives the wired byte: 0x1A. -/
theorem witness_ResetGivesEveryPieceOfStateItsTabledValue :
    attached.drives[1]? = some drive ∧ (attached.cfg.bDataIn = 0 ∧ attached.cfg.bDataOut = 1 ∧ attached.cfg.bClkIn = 2 ∧
      attached.cfg.bClkOut = 3 ∧ attached.cfg.bAtnIn = 7) ∧
    0#1 ++ attached.cfg.deviceAddrBits ++ 0b11010#5 = 0x1A#8 := by decide +kernel

theorem witness_ContributionsOfHostAndDrives :
    let x := { drive with pic1 := { drive.pic1 with orb := 0x0A#8, ddrb := 0x02#8 } }
    (withDrive x).drives[0]? = some x ∧
    (x.pic1.orb.getLsbD 1 = true ∧ x.pic1.ddrb.getLsbD 1 = true) ∧
    ¬ (x.pic1.orb.getLsbD 3 = true ∧ x.pic1.ddrb.getLsbD 3 = true) := by decide +kernel

theorem witness_LineInputsAreCachedShownAndAtnReachesCa1 :
    let x := { drive with pic1 := { drive.pic1 with pcr := 0x01#8, acr := 0x01#8 } }
    (withDrive x).drives[0]? = some x ∧
    (isActiveEdge (x.pic1.pcr.getLsbD 0) x.pic1.ca1Prev (!false) ∧ x.pic1.acr.getLsbD 0 = true) ∧
    ¬ (isActiveEdge (x.pic1.pcr.getLsbD 0) x.pic1.ca1Prev (!true) ∧ x.pic1.acr.getLsbD 0 = true) := by
  unfold isActiveEdge; decide +kernel

theorem witness_BusUpdatePushesTheResolvedLinesOnce : attached.bus.attached = [0, 1] ∧
    ∀ d ∈ attached.bus.attached, d < attached.drives.length := by decide +kernel

theorem witness_AttachAndDetachChangeOnlyTheAttachedDrives : 1 < attached.drives.length ∧ 1 ∈ attached.bus.attached ∧
    attached.bus.attached.Pairwise (· < ·) ∧ 1 < State.reset.drives.length ∧ 1 ∉ State.reset.bus.attached := by
  decide +kernel

theorem witness_DetachedDriveHasNoInfluenceOnTheBus : 0 < attached.drives.length ∧ 0 ∈ attached.bus.attached := by
  decide +kernel

theorem witness_BusTickTicksEveryAttachedDriveInOrder : attached.bus.attached = [0, 1] ∧
    ∀ d ∈ attached.bus.attached, d < attached.drives.length := by decide +kernel

theorem witness_EncodedGroupSpellsTheCodesOfItsNibbles :
    State.reset.cfg.gcrTable.length = 16 ∧ State.reset.cfg.gcrTable.Nodup ∧
    exec (.gcrEncGroup 0x12#8 0x34#8 0x56#8 0x78#8) State.reset =
      .next (State.reset.returning (.bytes [0x5C#8, 0xA6#8, 0xE7#8, 0xDA#8, 0xE9#8])) :=
  ⟨by decide +kernel, by decide +kernel, rfl⟩

/-- A code of the table and a code that is none. -/
theorem witness_DecodedGroupInvertsTheTableAndFlagsInvalidCodes :
    State.reset.cfg.gcrTable.length = 16 ∧ State.reset.cfg.gcrTable.Nodup ∧
    0x0A#5 ∈ State.reset.cfg.gcrTable ∧ 0x1F#5 ∉ State.reset.cfg.gcrTable := by decide +kernel

/-- The first and the last group of a data record. -/
theorem witness_EncodedFramesAreTheirRecordsInGroups : let payload : List Byte := List.replicate 255 0 ++ [0x09#8]
    payload.length = 256 ∧
    ([State.reset.cfg.dataMarker] ++ payload ++ [payload.foldl (· ^^^ ·) 0, 0, 0]).extract (4 * 0) (4 * 0 + 4) =
      [0x07#8, 0#8, 0#8, 0#8] ∧
    ([State.reset.cfg.dataMarker] ++ payload ++ [payload.foldl (· ^^^ ·) 0, 0, 0]).extract (4 * 64) (4 * 64 + 4) =
      [0x09#8, 0x09#8, 0#8, 0#8] := by decide +kernel

theorem witness_DecodedFramesReportValidityBesideTheirFields :
    let frame : List Byte := List.replicate 320 0x55#8 ++ [1, 2, 3, 4, 5]
    frame.length = 325 ∧ frame.extract (5 * 0) (5 * 0 + 5) = [0x55#8, 0x55#8, 0x55#8, 0x55#8, 0x55#8] ∧
    frame.extract (5 * 64) (5 * 64 + 5) = [1#8, 2#8, 3#8, 4#8, 5#8] := by decide +kernel

theorem witness_DecodeOfEncodedGroupsAndFramesGivesThemBack : ConfigOk State.reset.cfg ∧
    (List.replicate 256 0xFF#8).length = 256 := ⟨Config.default_ok, List.length_replicate⟩

theorem witness_EncodedFramesHoldNoSyncMark : State.reset.cfg.gcrTable = Config.default.gcrTable ∧
    exec (.gcrEncHeader 18#8 0#8 0x41#8 0x42#8) State.reset = .next (State.reset.returning
      (.bytes [0x52#8, 0x56#8, 0xB5#8, 0x29#8, 0x72#8, 0x74#8, 0x9C#8, 0xB5#8, 0x55#8, 0x55#8])) := ⟨rfl, rfl⟩

/-- The cursor on the last byte and on the one before it. -/
theorem witness_TrackAccessesUseTheCursorAndWrap :
    (withDrive (disk [0x55, 0xFF, 0x52] 2)).drives[0]? = some (disk [0x55, 0xFF, 0x52] 2) ∧
    (disk [0x55, 0xFF, 0x52] 2).diskPresent = true ∧ 1 ≤ (withDrive (disk [0x55, 0xFF, 0x52] 2)).cfg.numTracks ∧
    (disk [0x55, 0xFF, 0x52] 2).tracks[1 - 1]? = some ⟨[0x55, 0xFF, 0x52], 2⟩ ∧
    [0x55#8, 0xFF#8, 0x52#8][2]? = some 0x52#8 ∧ 2 + 1 = [0x55#8, 0xFF#8, 0x52#8].length ∧
    (disk [0x55, 0xFF, 0x52] 1).tracks[1 - 1]? = some ⟨[0x55, 0xFF, 0x52], 1⟩ ∧
    [0x55#8, 0xFF#8, 0x52#8][1]? = some 0xFF#8 ∧ 1 + 1 ≠ [0x55#8, 0xFF#8, 0x52#8].length := by decide +kernel

theorem witness_SectorSpanIsLaidOutAsSyncHeaderGapSyncDataGap : Image.wellFormed image = true ∧
    ConfigOk State.reset.cfg := ⟨by decide +kernel, Config.default_ok⟩

/-- Parameters under which track 1 has one sector and is one byte shorter than it needs; one byte more is the boundary. -/
def cramped (size : Nat) : State :=
  { withDrive (disk [0x00] 0) with cfg := { Config.default with sectors := [1], trackSize := [0, 0, 0, size] } }

theorem witness_TrackBuildLaysOutItsSectorsAndPads :
    (cramped 371).drives[0]? = some (disk [0x00] 0) ∧ (disk [0x00] 0).diskPresent = true ∧
    1 ≤ (cramped 371).cfg.numTracks ∧ (disk [0x00] 0).tracks[1 - 1]? = some ⟨[0x00], 0⟩ ∧
    Image.wellFormed image = true ∧
    (∀ size ∈ [371, 372], ((List.range ((cramped size).cfg.sectors.getD (1 - 1) 0)).flatMap
        (fun n => sectorSpan (cramped size).cfg 1 n image 0 0)).length = 372 ∧
      (cramped size).cfg.trackSize.getD ((cramped size).cfg.zones.getD (1 - 1) 0) 0 = size) ∧
    (withDrive (disk [0x00] 0)).cfg = Config.default := by decide +kernel

/-- The first and the last sector of track 1, in a buffer of that track's size. -/
theorem witness_SectorUpdateRewritesItsSpanInPlace : let x := disk (List.replicate 7820 0x55#8) 7819
    ConfigOk (withDrive x).cfg ∧ (withDrive x).drives[0]? = some x ∧ x.diskPresent = true ∧
    1 ≤ (withDrive x).cfg.numTracks ∧ x.tracks[1 - 1]? = some ⟨List.replicate 7820 0x55#8, 7819⟩ ∧
    (List.replicate 7820 0x55#8).length = trackSizeOf (withDrive x).cfg 1 ∧ 0 < sectorsOf (withDrive x).cfg 1 ∧
    20 < sectorsOf (withDrive x).cfg 1 ∧ Image.wellFormed image = true :=
  ⟨Config.default_ok, rfl, rfl, by decide +kernel, rfl, List.length_replicate.trans (by decide +kernel),
    by decide +kernel, by decide +kernel, by decide +kernel⟩

theorem witness_BuiltTrackDecodesBackToTheImage : let x := disk [0x55#8] 0
    ConfigOk (withDrive x).cfg ∧ (withDrive x).drives[0]? = some x ∧ x.diskPresent = true ∧
    1 ≤ (withDrive x).cfg.numTracks ∧ x.tracks[1 - 1]? = some ⟨[0x55#8], 0⟩ ∧ Image.wellFormed image = true ∧
    0 < sectorsOf (withDrive x).cfg 1 ∧ 20 < sectorsOf (withDrive x).cfg 1 :=
  ⟨Config.default_ok, rfl, rfl, by decide +kernel, rfl, by decide +kernel, by decide +kernel, by decide +kernel⟩

/-- A sync byte followed by one (a run), by none (isolated), in a run already, and an ordinary byte; a signal that sets
`F_CA1` and latches, and the first one after reset, which does neither. -/
theorem witness_ConsumedByteIsSignalledUnlessInASyncRun :
    (disk [0xFF, 0xFF] 1).tracks[1 - 1]? = some ⟨[0xFF, 0xFF], 1⟩ ∧ [0xFF#8, 0xFF#8][1]? = some 0xFF#8 ∧
    [0xFF#8, 0xFF#8][(1 + 1) % 2]? = some 0xFF#8 ∧
    (disk [0xFF, 0x55] 0).tracks[1 - 1]? = some ⟨[0xFF, 0x55], 0⟩ ∧ [0xFF#8, 0x55#8][0]? = some 0xFF#8 ∧
    [0xFF#8, 0x55#8][(0 + 1) % 2]? = some 0x55#8 ∧ ({ disk [0xFF, 0x55] 0 with inSync := true } : Drive).inSync = true ∧
    (disk [0xFF, 0x55] 1).tracks[1 - 1]? = some ⟨[0xFF, 0x55], 1⟩ ∧ [0xFF#8, 0x55#8][1]? = some 0x55#8 ∧
    (let p := { drive.pic2 with pcr := 0x01#8, acr := 0x01#8 };
      p.acr.getLsbD 0 = true ∧ (p.pcr.getLsbD 0 = true ∨ p.ca1Prev = true)) ∧
    ¬ (drive.pic2.pcr.getLsbD 0 = true ∨ drive.pic2.ca1Prev = true) := by decide +kernel

/-- Runs of no, one and two sync bytes, the last round the end of the buffer. -/
theorem witness_OnlyRunsOfTwoOrMoreSyncBytesAreSuppressed :
    (disk [0xFF, 0x55, 0xFF] 2).tracks[1 - 1]? = some ⟨[0xFF, 0x55, 0xFF], 2⟩ ∧
    (disk [0xFF, 0x55, 0xFF] 2).inSync = false ∧ 2 < [0xFF#8, 0x55#8, 0xFF#8].length ∧
    (∀ i, i < 2 → [0xFF#8, 0x55#8, 0xFF#8][(2 + i) % 3]? = some 0xFF#8) ∧
    [0xFF#8, 0x55#8, 0xFF#8][(2 + 2) % 3]? = some 0x55#8 ∧ 0x55#8 ≠ 0xFF#8 ∧
    (∀ i, i < 1 → [0xFF#8, 0x55#8, 0xFF#8][(0 + i) % 3]? = some 0xFF#8) ∧
    [0xFF#8, 0x55#8, 0xFF#8][(0 + 1) % 3]? = some 0x55#8 ∧
    [0xFF#8, 0x55#8, 0xFF#8][(1 + 0) % 3]? = some 0x55#8 := by decide +kernel

/-- No disk; a disk with the motor off; the motor on, with one cycle less than a byte's cost and with the cost; no cycle,
with the accumulator at the cost. -/
theorem witness_DriveTickRunsTimersThenRotation :
    (withDrive drive).drives[0]? = some drive ∧ drive.diskPresent = false ∧
    (let x := { disk [0x55#8] 0 with motor := false };
      (withDrive x).drives[0]? = some x ∧ (withDrive x).cfg.motorGatesRotation = true ∧ x.motor = false) ∧
    (let x := { disk [0x55#8] 0 with rotAcc := 20 };
      (withDrive x).drives[0]? = some x ∧ x.diskPresent = true ∧ x.motor = true ∧
      (withDrive x).cfg.byteCycles.getD ((withDrive x).cfg.zones.getD (x.ht / 2) 0) 0 = 26 ∧
      (x.rotAcc + 5) / 26 = 0 ∧ (x.rotAcc + 6) / 26 = 1) ∧
    (let x := { disk [0x55#8] 0 with rotAcc := 26 };
      (withDrive x).drives[0]? = some x ∧ x.diskPresent = true ∧ x.motor = true ∧
      exec (.drvTick 0 0) (withDrive x) = .next ((withDrive x).returning .none)) := by
  refine ⟨?_, ?_, ?_, ?_, rfl, rfl, rfl, rfl⟩ <;> decide +kernel

theorem witness_DriveTicksAddUp : (withDrive running).drives[0]? = some running ∧
    0 < costOf (withDrive running).cfg (headTrack running) := by decide +kernel

/-- The head at both ends of its range, with each phase difference on port B; and a value that is not port B's. -/
theorem witness_MechWriteStepsTheHeadAndSetsMotorAndLed :
    (∀ h ∈ [0, 68], ∀ v ∈ [0x0C#8, 0x05#8, 0x02#8, 0x03#8],
      let x := { portShows v with ht := h };
      (withDrive x).drives[0]? = some x ∧ h ≤ 2 * ((withDrive x).cfg.numTracks - 1) ∧
        v = x.pic2.orb &&& x.pic2.ddrb) ∧
    (0x05#8).toNat / 2 ^ Config.default.mStep % 4 = 1 ∧ (0x03#8).toNat / 2 ^ Config.default.mStep % 4 = 3 ∧
    (0x02#8).toNat / 2 ^ Config.default.mStep % 4 = 2 ∧ (0x0C#8).toNat / 2 ^ Config.default.mStep % 4 = 0 ∧
    State.reset.drives[0]? = some drive ∧ 0x01#8 ≠ drive.pic2.orb &&& drive.pic2.ddrb := by
  decide +kernel

theorem witness_OnlyPortWritesAndResetsMoveTheMechanics :
    ((after (.mechWrite 0 0x01#8) (withDrive (portShows 0x01#8))).bind fun t => t.drives[0]?).map Drive.ht = some 35 ∧
    (withDrive (portShows 0x01#8)).drives[0]? = some (portShows 0x01#8) ∧ (portShows 0x01#8).ht = 34 := by decide +kernel

/-- The first and the last address of every region of the default map, the addresses beside them, and addresses above
ADDR_W bits. -/
theorem witness_MemoryReadsFollowTheAddressMap : State.reset.drives[1]? = some drive ∧
    (∀ a ∈ [0, 2047], Config.default.ramBase ≤ a ∧ a < Config.default.ramBase + Config.default.ramSize) ∧
    (∀ a ∈ [6144, 7167], ¬ a < Config.default.ramBase + Config.default.ramSize ∧
      Config.default.pic1Base ≤ a ∧ a < Config.default.pic1Base + 1024) ∧
    (∀ a ∈ [7168, 8191], ¬ a < Config.default.pic1Base + 1024 ∧
      Config.default.pic2Base ≤ a ∧ a < Config.default.pic2Base + 1024) ∧
    (∀ a ∈ [49152, 65535], ¬ a < Config.default.pic2Base + 1024 ∧
      Config.default.romBase ≤ a ∧ a < Config.default.romBase + Config.default.romSize) ∧
    (∀ a ∈ [2048, 6143, 8192, 49151, 65536 + 2048], targetOf Config.default a = .unmapped) ∧
    (65536 + 2047) % 2 ^ Config.default.addrW = 2047 ∧ (65536 + 7168) % 2 ^ Config.default.addrW = 7168 := by decide +kernel

theorem witness_MemoryWritesFollowTheAddressMap : State.reset.drives[0]? = some drive ∧
    targetOf Config.default 0x07FF = .ram 2047 ∧ targetOf Config.default 0x1BFF = .pic1 15 ∧
    targetOf Config.default 0x1C00 = .pic2 0 ∧ targetOf Config.default 0x1FFF = .pic2 15 ∧
    targetOf Config.default 0xFFFF = .rom 16383 ∧ targetOf Config.default 0x10000 = .ram 0 := by decide +kernel

theorem witness_InsertEjectAndWriteProtect : (withDrive (disk [0x55#8] 0)).drives[0]? = some (disk [0x55#8] 0) ∧
    (disk [0x55#8] 0).diskPresent = true ∧ drive.diskPresent = false ∧ Image.wellFormed image = true := by decide +kernel

/-- The underflow cycle of a running timer sets its flag. -/
theorem witness_FlagsBecomeSetOnlyByTicksAndLineEdges : let p := { chip with t2Run := true }
    (onChip p).chipAt .standalone = some p ∧ p.ifr.getLsbD 5 = false ∧
    (chipAfter (.tick .standalone 1) p).map (fun q => q.ifr.getLsbD 5) = some true := by decide +kernel

/-- A drive whose mechanics follow a port that is not 0, and an operation on it. -/
theorem witness_MechanicsKeepFollowingTheMechanicsPort :
    (∀ x ∈ (withDrive running).drives, MechanicsFollow (withDrive running).cfg x) ∧
    ((after (.wrOrb (.pic2 0) 0x00#8) (withDrive running)).bind fun t => t.drives[0]?).map Drive.motor = some false ∧
    (after (.mechWrite 0 0x05#8) (withDrive running)).isSome = true := by
  refine ⟨fun x hx => ?_, by decide +kernel, by decide +kernel⟩
  rcases List.mem_cons.1 (show x ∈ [running, drive] from hx) with rfl | hx
  · constructor <;> decide +kernel
  · obtain rfl := List.mem_singleton.1 hx
    constructor <;> decide +kernel

/-- A block with a written byte of RAM, both drives attached and a request pending. -/
def busy : State :=
  { withDrive { running with ram := [(0x7FF, 0x5A#8)] } with
    bus := ⟨true, true, true, [0, 1]⟩, pending := [⟨.drive 0, 0x83#8, [100]⟩] }

theorem witness_EveryStepKeepsTheBlockWellFormed : StateOk busy ∧
    (match step busy with | .next t => t.pending | _ => busy.pending) = [] := by
  refine ⟨⟨Config.default_usable, rfl, by decide, by decide, fun x hx => ?_⟩, by decide +kernel⟩
  rcases List.mem_cons.1 (show x ∈ [{ running with ram := [(0x7FF, 0x5A#8)] }, drive] from hx) with rfl | hx
  · refine ⟨?_, ?_, ?_, ?_, ?_, fun _ => rfl, ?_, fun k b h => ?_⟩
    · decide +kernel
    · decide +kernel
    · decide +kernel
    · decide +kernel
    · decide +kernel
    · intro h; cases h
    · cases h
  · obtain rfl := List.mem_singleton.1 hx
    refine ⟨?_, ?_, ?_, ?_, ?_, fun _ => rfl, ?_, fun k b h => ?_⟩
    · decide +kernel
    · decide +kernel
    · decide +kernel
    · decide +kernel
    · decide +kernel
    · intro h; cases h
    · cases h

/-- A drive that sees ATN asserted and is write-protected, and an operation that changes a wired pin. -/
theorem witness_PortInputsStayAsWired :
    let x := { running with atnIn := true, pic1 := { drive.pic1 with inb := 0x9A#8 }, writeProtect := true,
                            pic2 := { running.pic2 with inb := 0xEF#8 } }
    ConfigUsable (withDrive x).cfg ∧ (∀ y ∈ (withDrive x).drives, PinsWired (withDrive x).cfg y) ∧
    setsWiredPins (.drvSetWp 0 false) = false ∧
    ((after (.drvSetWp 0 false) (withDrive x)).bind fun t => t.drives[0]?).map (fun y => y.pic2.inb) = some 0xFF#8 := by
  refine ⟨Config.default_usable, fun y hy => ?_, rfl, by decide +kernel⟩
  rcases List.mem_cons.1 (show y ∈ [{ running with
      atnIn := true, pic1 := { drive.pic1 with inb := 0x9A#8 }, writeProtect := true,
      pic2 := { running.pic2 with inb := 0xEF#8 } }, drive] from hy) with rfl | hy
  · constructor <;> decide +kernel
  · obtain rfl := List.mem_singleton.1 hy
    constructor <;> decide +kernel

/-- A tick of the bus with drive 0 attached, which may change that drive and not drive 1. -/
theorem witness_UnitsNotAddressedAreUnchanged : let s := { State.reset with bus := ⟨true, true, true, [0]⟩ }
    (after (.busTick 1) s).isSome = true ∧ ¬ mayChangeDrive (.busTick 1) s 1 ∧ ¬ mayChangeChip (.busTick 1) ∧
    changesBus (.busTick 1) = false := by
  refine ⟨by decide +kernel, ?_, ?_, rfl⟩
  · exact (by decide : ¬ 1 ∈ [0])
  · rintro (h | h) <;> cases h

/-- A write of RAM: the byte it names and the bytes beside it; and a write that names no byte of RAM. -/
theorem witness_RamChangesOnlyWhereItIsWrittenAndRomNever :
    (after (.drvMemwr 0 0x07FF 0x5A#8) State.reset).isSome = true ∧ State.reset.drives[0]? = some drive ∧
    targetOf State.reset.cfg 0x07FF = .ram 2047 ∧ targetOf State.reset.cfg 0x07FF ≠ .ram 2046 ∧
    targetOf State.reset.cfg 0x0800 ≠ .ram 2048 := by decide +kernel

end Sys2Proof.Tests
end

/-! PROOFS. The family of spec/10_state.md: what every operation keeps of the flags, the memories and the form of the
state, and the state after RESET (R30, R41, R45, R48, R49, R61, R62). -/

namespace Sys2Proof.Machine

/-! ### The cases of a memory access, of a consumed byte and of a mechanics write -/

/-- A memory read leaves the drive, or reads a register of one of its chips. -/
theorem Drive.memRead_cases (cfg : Config) (powerOns d addr : Nat) (x : Drive) :
    (x.memRead cfg powerOns d addr).2 = x ∨
      (∃ r, (x.memRead cfg powerOns d addr).2 = { x with pic1 := (x.pic1.regRead r).2 }) ∨
      ∃ r, (x.memRead cfg powerOns d addr).2 = { x with pic2 := (x.pic2.regRead r).2 } := by
  unfold Drive.memRead
  cases targetOf cfg addr with
  | ram offset => exact .inl rfl
  | pic1 r => exact .inr (.inl ⟨r, rfl⟩)
  | pic2 r => exact .inr (.inr ⟨r, rfl⟩)
  | rom offset => exact .inl rfl
  | unmapped => exact .inl rfl

/-- A memory write leaves the drive, stores the byte of RAM that the address names, or writes a register of one of its
chips, PIC2's with or without the hook of R303. -/
theorem Drive.memWrite_cases (cfg : Config) (addr : Nat) (v : Byte) (x : Drive) :
    x.memWrite cfg addr v = x ∨
      (∃ offset, targetOf cfg addr = .ram offset ∧
        x.memWrite cfg addr v = { x with ram := Memory.write x.ram offset v }) ∨
      (∃ r, x.memWrite cfg addr v = { x with pic1 := x.pic1.regWrite r v }) ∨
      (∃ r, x.memWrite cfg addr v = { x with pic2 := x.pic2.regWrite r v }) ∨
      ∃ r, x.memWrite cfg addr v = Drive.portHook cfg { x with pic2 := x.pic2.regWrite r v } := by
  unfold Drive.memWrite
  cases targetOf cfg addr with
  | ram offset => exact .inr (.inl ⟨offset, rfl, rfl⟩)
  | pic1 r => exact .inr (.inr (.inl ⟨r, rfl⟩))
  | pic2 r =>
    by_cases hooked : regIndex r = 0 ∨ regIndex r = 2
    · exact .inr (.inr (.inr (.inr ⟨r, if_pos hooked⟩)))
    · exact .inr (.inr (.inr (.inl ⟨r, if_neg hooked⟩)))
  | rom offset => exact .inl rfl
  | unmapped => exact .inl rfl

/-- The detector chooses the sync mode and whether CA1 of PIC2 is signalled. -/
theorem Drive.detect_cases (b : Byte) (ahead : Bool) (x : Drive) :
    ∃ m, (x.detect b ahead).1 = { x with inSync := m } ∨
      (x.detect b ahead).1 = ({ x with inSync := m } : Drive).signal := by
  unfold Drive.detect
  split
  · split
    · exact ⟨x.inSync, .inl rfl⟩
    · split
      · exact ⟨true, .inl rfl⟩
      · exact ⟨x.inSync, .inr rfl⟩
  · exact ⟨false, .inr rfl⟩

/-- Drive `x` with the cursor of track `t` moved on over buffer `b`, the byte there shown, and sync mode `m`. -/
def Drive.byteShown (x : Drive) (t : Nat) (b : Track) (m : Bool) : Drive :=
  { (x.setTrack t b.advance).showByte b.here with inSync := m }

/-- A consumed byte: nothing where the track has no buffer; else the byte is shown, and may be signalled. -/
theorem Drive.consumeByte_cases (cfg : Config) (t : Nat) (x : Drive) :
    (x.consumeByte cfg t).1 = x ∨ ∃ b m, x.tracks[t - 1]? = some b ∧
      ((x.consumeByte cfg t).1 = (x.byteShown t b m).showSync cfg ∨
        (x.consumeByte cfg t).1 = (x.byteShown t b m).signal.showSync cfg) := by
  unfold Drive.consumeByte
  split
  · exact .inl rfl
  · rename_i b found
    obtain ⟨m, h⟩ := Drive.detect_cases b.here b.advance.isSync ((x.setTrack t b.advance).showByte b.here)
    exact .inr ⟨b, m, found, h.imp (congrArg (Drive.showSync cfg)) (congrArg (Drive.showSync cfg))⟩

/-- A mechanics write keeps the head in range (R291). -/
theorem Drive.mechWrite_ht_le (cfg : Config) (v : Byte) (x : Drive) (h : x.ht ≤ htMax cfg) :
    (x.mechWrite cfg v).ht ≤ htMax cfg := by
  simp only [Drive.mechWrite, Drive.step]
  split
  · exact Nat.min_le_right _ _
  · split
    · omega
    · exact h

/-! ### Flags: what operation `i` may set (R30, R62) -/

/-- From chip `p` to chip `q` a flag becomes 1 only where operation `i` is an event for flags, and never `F_SR`. -/
def FlagsRiseOnlyBy (i : Instr) (p q : Pic) : Prop :=
  ∀ k, k < 7 → p.ifr.getLsbD k = false → q.ifr.getLsbD k = true → raisesFlags i = true ∧ k ≠ 2

/-- The same of both chips of a drive. -/
structure DriveFlagsRiseOnlyBy (i : Instr) (x y : Drive) : Prop where
  pic1 : FlagsRiseOnlyBy i x.pic1 y.pic1
  pic2 : FlagsRiseOnlyBy i x.pic2 y.pic2

section
variable {i : Instr}

theorem FlagsRiseOnlyBy.of_ifr_eq {p q : Pic} (h : q.ifr = p.ifr) : FlagsRiseOnlyBy i p q := by
  intro k _ off on
  rw [h, off] at on
  cases on

theorem FlagsRiseOnlyBy.refl (p : Pic) : FlagsRiseOnlyBy i p p := .of_ifr_eq rfl

theorem FlagsRiseOnlyBy.trans {p q r : Pic} (h1 : FlagsRiseOnlyBy i p q) (h2 : FlagsRiseOnlyBy i q r) :
    FlagsRiseOnlyBy i p r := by
  intro k hk off on
  cases between : q.ifr.getLsbD k with
  | true => exact h1 k hk off between
  | false => exact h2 k hk between on

theorem PicEffect.flagsRise {hook : Bool} {f : Pic → Pic} (h : PicEffect i hook f) (p : Pic) :
    FlagsRiseOnlyBy i p (f p) := h.flags p

/-- A chip reset sets no flag. -/
theorem FlagsRiseOnlyBy.reset (p : Pic) (ina inb : Byte) : FlagsRiseOnlyBy i p (Pic.reset ina inb) :=
  (PicEffect.resetPic i).flags p

/-- A register read sets no flag; five of the reads clear some. -/
theorem FlagsRiseOnlyBy.regRead (r : Nat) (p : Pic) : FlagsRiseOnlyBy i p (p.regRead r).2 := by
  unfold Pic.regRead
  split
  case h_1 => exact (PicEffect.clearB i false).flagsRise p
  case h_2 => exact (PicEffect.clearA i false).flagsRise p
  case h_5 => exact (PicEffect.clearFlag i false flagT1).flagsRise p
  case h_9 => exact (PicEffect.clearFlag i false flagT2).flagsRise p
  case h_11 => exact (PicEffect.clearFlag i false flagSr).flagsRise p
  all_goals exact .refl p

/-- A register write sets no flag; seven of the writes clear some. -/
theorem FlagsRiseOnlyBy.regWrite (r : Nat) (v : Byte) (p : Pic) : FlagsRiseOnlyBy i p (p.regWrite r v) := by
  unfold Pic.regWrite
  split
  case h_1 => exact (PicEffect.clearB i true).flagsRise { p with orb := v }
  case h_2 => exact (PicEffect.clearA i true).flagsRise { p with ora := v }
  case h_6 => exact (PicEffect.clearFlag i true flagT1).flagsRise p
  case h_8 => exact (PicEffect.clearFlag i true flagT1).flagsRise p
  case h_10 => exact (PicEffect.clearFlag i true flagT2).flagsRise p
  case h_11 => exact (PicEffect.clearFlag i true flagSr).flagsRise p
  case h_14 => exact fun _ _ off on => (flag_and_elim off on).elim
  all_goals exact .of_ifr_eq rfl

theorem DriveFlagsRiseOnlyBy.refl (x : Drive) : DriveFlagsRiseOnlyBy i x x := ⟨.refl _, .refl _⟩

theorem DriveFlagsRiseOnlyBy.trans {x y z : Drive} (h1 : DriveFlagsRiseOnlyBy i x y)
    (h2 : DriveFlagsRiseOnlyBy i y z) : DriveFlagsRiseOnlyBy i x z :=
  ⟨h1.pic1.trans h2.pic1, h1.pic2.trans h2.pic2⟩

/-- What holds for one application holds for any number of them. -/
theorem DriveFlagsRiseOnlyBy.iterate {f : Drive → Drive} (h : ∀ x, DriveFlagsRiseOnlyBy i x (f x)) (n : Nat)
    (x : Drive) : DriveFlagsRiseOnlyBy i x (f^[n] x) :=
  Function.Iterate.rec (DriveFlagsRiseOnlyBy i x) (.refl x) (fun _ hy => hy.trans (h _)) n

theorem DriveFlagsRiseOnlyBy.setAtnIn (event : raisesFlags i = true) (cfg : Config) (line : Bool) (x : Drive) :
    DriveFlagsRiseOnlyBy i x (x.setAtnIn cfg line) :=
  ⟨(PicEffect.setCa1 i false (!line) event).flagsRise
    { x.pic1 with inb := setBit x.pic1.inb cfg.bAtnIn (!line) }, .refl _⟩

/-- Of the three pushed lines only ATN reaches a flag. -/
theorem DriveFlagsRiseOnlyBy.pushLines (event : raisesFlags i = true) (cfg : Config) (l : Lines) (x : Drive) :
    DriveFlagsRiseOnlyBy i x (x.pushLines cfg l) :=
  (setAtnIn event cfg l.atn x).trans ⟨.of_ifr_eq rfl, .refl _⟩

theorem DriveFlagsRiseOnlyBy.consumeByte (event : raisesFlags i = true) (cfg : Config) (t : Nat) (x : Drive) :
    DriveFlagsRiseOnlyBy i x (x.consumeByte cfg t).1 := by
  have signal : PicEffect i false fun p => (p.setCa1 false).setCa1 true :=
    (PicEffect.setCa1 i false true event).comp (.setCa1 i false false event)
  rcases Drive.consumeByte_cases cfg t x with h | ⟨b, m, -, h | h⟩ <;> rw [h]
  · exact .refl x
  · exact ⟨.refl _, .of_ifr_eq rfl⟩
  · exact ⟨.refl _, signal.flagsRise (x.byteShown t b m).pic2⟩

theorem DriveFlagsRiseOnlyBy.ticks (event : raisesFlags i = true) (cfg : Config) (n : Nat) (x : Drive) :
    DriveFlagsRiseOnlyBy i x (x.ticks cfg n).1 := by
  have timers : PicEffect i false (Pic.ticks cfg n) := .ticks i false cfg n event
  exact Drive.ticks_induction cfg n (DriveFlagsRiseOnlyBy i x)
    (fun _ hy => hy.trans ⟨timers.flagsRise _, timers.flagsRise _⟩)
    (fun _ _ hy => ⟨hy.pic1, hy.pic2⟩)
    (fun _ _ hy => hy.trans (.consumeByte event cfg _ _)) x (.refl x)

theorem DriveFlagsRiseOnlyBy.memRead (cfg : Config) (powerOns d addr : Nat) (x : Drive) :
    DriveFlagsRiseOnlyBy i x (x.memRead cfg powerOns d addr).2 := by
  rcases Drive.memRead_cases cfg powerOns d addr x with h | ⟨r, h⟩ | ⟨r, h⟩ <;> rw [h]
  · exact .refl x
  · exact ⟨.regRead r x.pic1, .refl _⟩
  · exact ⟨.refl _, .regRead r x.pic2⟩

theorem DriveFlagsRiseOnlyBy.memWrite (cfg : Config) (addr : Nat) (v : Byte) (x : Drive) :
    DriveFlagsRiseOnlyBy i x (x.memWrite cfg addr v) := by
  rcases Drive.memWrite_cases cfg addr v x with h | ⟨_, -, h⟩ | ⟨r, h⟩ | ⟨r, h⟩ | ⟨r, h⟩ <;> rw [h]
  · exact .refl x
  · exact ⟨.refl _, .refl _⟩
  · exact ⟨.regWrite r v x.pic1, .refl _⟩
  · exact ⟨.refl _, .regWrite r v x.pic2⟩
  · exact ⟨.refl _, .regWrite r v x.pic2⟩

theorem DriveFlagsRiseOnlyBy.insert (cfg : Config) (image : Image) (id1 id2 : Byte) (x : Drive) :
    DriveFlagsRiseOnlyBy i x (x.insert cfg image id1 id2) := by
  unfold Drive.insert
  split <;> exact ⟨.refl _, .of_ifr_eq rfl⟩

/-- No effect of an operation on a drive sets a flag of its chips, but for events. -/
theorem DriveEffect.flagsRise {s : State} {d : Nat} {x y : Drive} (h : DriveEffect i s d x y) :
    DriveFlagsRiseOnlyBy i x y := by
  cases h with
  | same => exact .refl x
  | pic1 f effect => exact ⟨effect.elim (·.flagsRise _) (·.flagsRise _), .refl _⟩
  | pic2 f effect => exact ⟨.refl _, effect.flagsRise _⟩
  | hook f effect => exact ⟨.refl _, effect.flagsRise x.pic2⟩
  | push l n op => exact .iterate (.pushLines (by rw [op]; rfl) s.cfg l) n x
  | busTick n k op => exact .iterate (.ticks (by rw [op]; rfl) s.cfg n) k x
  | atnIn l op => exact .setAtnIn (by rw [op]; rfl) s.cfg l x
  | clkIn l => exact ⟨.of_ifr_eq rfl, .refl _⟩
  | dataIn l => exact ⟨.of_ifr_eq rfl, .refl _⟩
  | tick n op => exact .ticks (by rw [op]; rfl) s.cfg n x
  | memRead a => exact .memRead s.cfg s.powerOns d a x
  | memWrite a v => exact .memWrite s.cfg a v x
  | insert image id1 id2 => exact .insert s.cfg image id1 id2 x
  | eject => exact ⟨.refl _, .of_ifr_eq rfl⟩
  | setWp b => exact ⟨.refl _, .of_ifr_eq rfl⟩
  | mechWrite v => exact ⟨.refl _, .refl _⟩
  | track => exact ⟨.refl _, .refl _⟩
  | reset => exact ⟨.reset _ _ _, .reset _ _ _⟩

/-- No effect of an operation on the standalone chip sets a flag, but for events. -/
theorem Effects.chip_flagsRise {s t : State} (h : Effects i s t) : FlagsRiseOnlyBy i s.chip t.chip := by
  rcases h.chip with same | ⟨-, hook, f, effect, changed⟩ | ⟨-, cleared⟩
  · rw [same]; exact .refl _
  · rw [changed]; exact effect.flagsRise _
  · rw [cleared]; exact .reset _ _ _

end

/-- Settles O54, by cases on the chip: each is the standalone one or one of a drive, and the effect of the operation on
it is among those of `exec_effects`. -/
theorem flagsBecomeSetOnlyByTicksAndLineEdges : Obligations.FlagsBecomeSetOnlyByTicksAndLineEdges := by
  unfold Obligations.FlagsBecomeSetOnlyByTicksAndLineEdges
  intro i s t c p q k hexec hp hq
  have effects := exec_effects i s t hexec
  suffices rise : FlagsRiseOnlyBy i p q from rise k
  cases c with
  | standalone =>
    cases hp
    cases hq
    exact effects.chip_flagsRise
  | pic1 d =>
    simp only [State.chipAt, Option.map_eq_some_iff] at hp hq
    obtain ⟨x, hx, rfl⟩ := hp
    obtain ⟨y, hy, rfl⟩ := hq
    exact (effects.drives d x y hx hy).flagsRise.pic1
  | pic2 d =>
    simp only [State.chipAt, Option.map_eq_some_iff] at hp hq
    obtain ⟨x, hx, rfl⟩ := hp
    obtain ⟨y, hy, rfl⟩ := hq
    exact (effects.drives d x y hx hy).flagsRise.pic2

/-! ### Memories: only a write and RESET change them (R49, R93) -/

/-- Drive `y` holds the memories of drive `x`. -/
structure MemoriesKept (x y : Drive) : Prop where
  ram : y.ram = x.ram
  rom : y.rom = x.rom

theorem MemoriesKept.refl (x : Drive) : MemoriesKept x x := ⟨rfl, rfl⟩

theorem MemoriesKept.trans {x y z : Drive} (h1 : MemoriesKept x y) (h2 : MemoriesKept y z) : MemoriesKept x z :=
  ⟨h2.ram.trans h1.ram, h2.rom.trans h1.rom⟩

theorem MemoriesKept.iterate {f : Drive → Drive} (h : ∀ x, MemoriesKept x (f x)) (n : Nat) (x : Drive) :
    MemoriesKept x (f^[n] x) :=
  Function.Iterate.rec (MemoriesKept x) (.refl x) (fun _ hy => hy.trans (h _)) n

theorem MemoriesKept.consumeByte (cfg : Config) (t : Nat) (x : Drive) : MemoriesKept x (x.consumeByte cfg t).1 := by
  rcases Drive.consumeByte_cases cfg t x with h | ⟨b, m, -, h | h⟩ <;> rw [h] <;> exact ⟨rfl, rfl⟩

theorem MemoriesKept.ticks (cfg : Config) (n : Nat) (x : Drive) : MemoriesKept x (x.ticks cfg n).1 :=
  Drive.ticks_induction cfg n (MemoriesKept x) (fun _ hy => ⟨hy.ram, hy.rom⟩) (fun _ _ hy => ⟨hy.ram, hy.rom⟩)
    (fun _ _ hy => hy.trans (.consumeByte cfg _ _)) x (.refl x)

theorem MemoriesKept.memRead (cfg : Config) (powerOns d addr : Nat) (x : Drive) :
    MemoriesKept x (x.memRead cfg powerOns d addr).2 := by
  rcases Drive.memRead_cases cfg powerOns d addr x with h | ⟨r, h⟩ | ⟨r, h⟩ <;> rw [h] <;> exact ⟨rfl, rfl⟩

theorem MemoriesKept.insert (cfg : Config) (image : Image) (id1 id2 : Byte) (x : Drive) :
    MemoriesKept x (x.insert cfg image id1 id2) := by
  unfold Drive.insert
  split <;> exact ⟨rfl, rfl⟩

/-- A memory write keeps the ROM, and of the RAM every byte but the one its address names. -/
theorem Drive.memWrite_memories (cfg : Config) (addr : Nat) (v : Byte) (x : Drive) :
    (x.memWrite cfg addr v).rom = x.rom ∧
      ∀ offset, targetOf cfg addr ≠ .ram offset →
        Memory.read (x.memWrite cfg addr v).ram offset = Memory.read x.ram offset := by
  rcases Drive.memWrite_cases cfg addr v x with h | ⟨written, target, h⟩ | ⟨r, h⟩ | ⟨r, h⟩ | ⟨r, h⟩ <;> rw [h]
  · exact ⟨rfl, fun _ _ => rfl⟩
  · refine ⟨rfl, fun offset other => Memory.read_write_other x.ram v ?_⟩
    rintro rfl
    exact other target
  · exact ⟨rfl, fun _ _ => rfl⟩
  · exact ⟨rfl, fun _ _ => rfl⟩
  · exact ⟨rfl, fun _ _ => rfl⟩

/-- Every effect on a drive keeps its memories, but for a memory write and RESET. -/
theorem DriveEffect.memories {i : Instr} {s : State} {d : Nat} {x y : Drive} (h : DriveEffect i s d x y) :
    MemoriesKept x y ∨ (∃ addr v, i = .drvMemwr d addr v ∧ y = x.memWrite s.cfg addr v) ∨
      (i = .reset ∧ y.rom = x.rom) := by
  cases h with
  | memWrite a v op => exact .inr (.inl ⟨a, v, op, rfl⟩)
  | reset op => exact .inr (.inr ⟨op, rfl⟩)
  | push l n => exact .inl (.iterate (f := Drive.pushLines s.cfg l) (fun _ => ⟨rfl, rfl⟩) n x)
  | busTick n k => exact .inl (.iterate (.ticks s.cfg n) k x)
  | tick n => exact .inl (.ticks s.cfg n x)
  | memRead a => exact .inl (.memRead s.cfg s.powerOns d a x)
  | insert image id1 id2 => exact .inl (.insert s.cfg image id1 id2 x)
  | same | pic1 | pic2 | hook | atnIn | clkIn | dataIn | eject | setWp | mechWrite | track => exact .inl ⟨rfl, rfl⟩

theorem Drive.romByte_congr {x y : Drive} (h : y.rom = x.rom) (d offset : Nat) :
    y.romByte d offset = x.romByte d offset := by
  rw [Drive.romByte, Drive.romByte, h]

theorem Drive.ramByte_congr {x y : Drive} {offset : Nat} (h : Memory.read y.ram offset = Memory.read x.ram offset)
    (powerOns d : Nat) : y.ramByte powerOns d offset = x.ramByte powerOns d offset := by
  rw [Drive.ramByte, Drive.ramByte, h]

/-- Settles O60, by the three effects an operation can have on a drive's memories. -/
theorem ramChangesOnlyWhereItIsWrittenAndRomNever : Obligations.RamChangesOnlyWhereItIsWrittenAndRomNever := by
  unfold Obligations.RamChangesOnlyWhereItIsWrittenAndRomNever
  intro i s t d x y hexec hx hy
  have effects := exec_effects i s t hexec
  rcases (effects.drives d x y hx hy).memories with kept | ⟨addr, v, op, rfl⟩ | ⟨op, rom⟩
  · refine ⟨Drive.romByte_congr kept.rom d, fun notReset offset _ => ?_⟩
    rw [effects.powerOns notReset]
    exact Drive.ramByte_congr (by rw [kept.ram]) s.powerOns d
  · obtain ⟨rom, ram⟩ := x.memWrite_memories s.cfg addr v
    refine ⟨Drive.romByte_congr rom d, fun notReset offset unnamed => ?_⟩
    rw [effects.powerOns notReset]
    exact Drive.ramByte_congr (ram offset (unnamed addr v op)) s.powerOns d
  · exact ⟨Drive.romByte_congr rom d, fun notReset => absurd op notReset⟩

/-! ### Well-formed drives (R45, R48, R49) -/

section
variable {cfg : Config} {x : Drive}

/-- Well-formedness looks at the head, the disk and the memories only. -/
theorem DriveOk.congr (h : DriveOk cfg x) {y : Drive} (ht : y.ht = x.ht) (disk : y.diskPresent = x.diskPresent)
    (tracks : y.tracks = x.tracks) (ram : y.ram = x.ram) (rom : y.rom = x.rom) : DriveOk cfg y where
  head := ht ▸ h.head
  ramForm := ram ▸ h.ramForm
  ramRange := ram ▸ h.ramRange
  romForm := rom ▸ h.romForm
  romRange := rom ▸ h.romRange
  noDisk := by rw [disk, tracks]; exact h.noDisk
  disk := by rw [disk, tracks]; exact h.disk
  sizes := by rw [tracks]; exact h.sizes

theorem DriveOk.iterate {f : Drive → Drive} (keeps : ∀ y, DriveOk cfg y → DriveOk cfg (f y)) (h : DriveOk cfg x)
    (n : Nat) : DriveOk cfg (f^[n] x) :=
  Function.Iterate.rec (DriveOk cfg) h keeps n

/-- A drive after reset is well formed when its firmware image is. -/
theorem DriveOk.reset (config : ConfigOk cfg) {rom : Memory} (form : Memory.wf rom = true)
    (range : Memory.within cfg.romSize rom = true) : DriveOk cfg (Drive.reset cfg rom) where
  head := config.headReset
  ramForm := rfl
  ramRange := rfl
  romForm := form
  romRange := range
  noDisk _ := rfl
  disk inserted := by cases inserted
  sizes k b found := by cases found

theorem DriveOk.mechWrite (h : DriveOk cfg x) (v : Byte) : DriveOk cfg (x.mechWrite cfg v) :=
  { h with head := x.mechWrite_ht_le cfg v h.head }

theorem DriveOk.portHook (h : DriveOk cfg x) : DriveOk cfg (x.portHook cfg) := h.mechWrite x.mechPort

/-- A buffer may be replaced by one of its track's size with the cursor inside. -/
theorem DriveOk.setTrack (h : DriveOk cfg x) (t : Nat) {b : Track} (size : b.buf.length = trackSizeOf cfg (t - 1 + 1))
    (inside : b.cursor < b.buf.length) : DriveOk cfg (x.setTrack t b) :=
  { h with
    noDisk := fun ejected => by rw [Drive.setTrack, h.noDisk ejected]; rfl
    disk := fun inserted => by rw [Drive.setTrack, List.length_set]; exact h.disk inserted
    sizes := fun k c found => by
      rw [Drive.setTrack, List.getElem?_set] at found
      split at found
      · subst k
        split at found
        · cases found
          exact ⟨size, inside⟩
        · cases found
      · exact h.sizes k c found }

theorem DriveOk.consumeByte (h : DriveOk cfg x) (t : Nat) : DriveOk cfg (x.consumeByte cfg t).1 := by
  rcases Drive.consumeByte_cases cfg t x with idle | ⟨b, m, found, shown⟩
  · rw [idle]; exact h
  · obtain ⟨size, inside⟩ := h.sizes (t - 1) b found
    have moved : DriveOk cfg (x.setTrack t b.advance) :=
      h.setTrack t size (Nat.mod_lt _ (Nat.zero_lt_of_lt inside))
    rcases shown with quiet | signalled
    · rw [quiet]; exact moved.congr rfl rfl rfl rfl rfl
    · rw [signalled]; exact moved.congr rfl rfl rfl rfl rfl

theorem DriveOk.ticks (h : DriveOk cfg x) (n : Nat) : DriveOk cfg (x.ticks cfg n).1 :=
  Drive.ticks_induction cfg n (DriveOk cfg) (fun _ hy => hy.congr rfl rfl rfl rfl rfl)
    (fun _ _ hy => hy.congr rfl rfl rfl rfl rfl) (fun _ t hy => hy.consumeByte t) x h

theorem DriveOk.memRead (h : DriveOk cfg x) (powerOns d addr : Nat) :
    DriveOk cfg (x.memRead cfg powerOns d addr).2 := by
  rcases Drive.memRead_cases cfg powerOns d addr x with e | ⟨r, e⟩ | ⟨r, e⟩ <;> rw [e] <;>
    exact h.congr rfl rfl rfl rfl rfl

/-- An address that names a byte of RAM names one inside it (R104). -/
theorem targetOf_ram_lt {addr offset : Nat} (h : targetOf cfg addr = .ram offset) : offset < cfg.ramSize := by
  simp only [targetOf] at h
  split at h
  · cases h
    omega
  · split at h
    · cases h
    · split at h
      · cases h
      · split at h <;> cases h

theorem DriveOk.storeRam (h : DriveOk cfg x) {offset : Nat} (inside : offset < cfg.ramSize) (v : Byte) :
    DriveOk cfg { x with ram := Memory.write x.ram offset v } :=
  { h with
    ramForm := Memory.wf_write x.ram offset v h.ramForm
    ramRange := Memory.within_write x.ram v inside h.ramRange }

theorem DriveOk.memWrite (h : DriveOk cfg x) (addr : Nat) (v : Byte) : DriveOk cfg (x.memWrite cfg addr v) := by
  rcases Drive.memWrite_cases cfg addr v x with e | ⟨offset, target, e⟩ | ⟨r, e⟩ | ⟨r, e⟩ | ⟨r, e⟩ <;> rw [e]
  · exact h
  · exact h.storeRam (targetOf_ram_lt target) v
  · exact h.congr rfl rfl rfl rfl rfl
  · exact h.congr rfl rfl rfl rfl rfl
  · exact DriveOk.portHook (h.congr rfl rfl rfl rfl rfl)

theorem DriveOk.eject (h : DriveOk cfg x) : DriveOk cfg (x.eject cfg) :=
  { h with
    noDisk := fun _ => rfl
    disk := fun inserted => by cases inserted
    sizes := fun k b found => by cases found }

/-- An insert builds every buffer, so it does not need the buffers before it to be well formed. -/
theorem DriveOk.insert (h : DriveOk cfg x) (config : ConfigUsable cfg) (image : Image) (id1 id2 : Byte) :
    DriveOk cfg (x.insert cfg image id1 id2) := by
  have before : DriveOk cfg (if x.diskPresent then x.eject cfg else x) := by
    split
    · exact h.eject
    · exact h
  exact
    { before with
      noDisk := fun ejected => by cases ejected
      disk := fun _ => by simp [Drive.insert]
      sizes := fun k b found => by
        simp only [Drive.insert, List.getElem?_map, Option.map_eq_some_iff, List.getElem?_eq_some_iff,
          List.length_range, List.getElem_range] at found
        obtain ⟨_, ⟨hk, rfl⟩, rfl⟩ := found
        exact buildTrack_size config ⟨by omega, by omega⟩ image id1 id2 }

/-- A track operation leaves a buffer of the track's size with its cursor inside. -/
theorem DriveOk.trackEffect (h : DriveOk cfg x) (config : ConfigUsable cfg) {t : Nat} {b b' : Track}
    (range : trackInRange cfg t) (found : x.tracks[t - 1]? = some b) (effect : TrackEffect cfg t b b') :
    DriveOk cfg (x.setTrack t b') := by
  obtain ⟨size, inside⟩ := h.sizes (t - 1) b found
  rcases effect with ⟨length, cursor⟩ | ⟨image, id1, id2, -, rfl⟩
  · exact h.setTrack t (length.trans size) (length ▸ cursor inside)
  · obtain ⟨built, start⟩ := buildTrack_size config range image id1 id2
    exact h.setTrack t (by rw [Nat.sub_add_cancel range.1]; exact built) start

end

/-- Every effect of an operation on a drive keeps it well formed. -/
theorem DriveEffect.keeps_ok {i : Instr} {s : State} {d : Nat} {x y : Drive} (config : ConfigUsable s.cfg)
    (ok : DriveOk s.cfg x) (h : DriveEffect i s d x y) : DriveOk s.cfg y := by
  cases h with
  | hook f => exact DriveOk.portHook (ok.congr rfl rfl rfl rfl rfl)
  | push l n => exact ok.iterate (f := Drive.pushLines s.cfg l) (fun _ hy => hy.congr rfl rfl rfl rfl rfl) n
  | busTick n k => exact ok.iterate (fun _ hy => hy.ticks n) k
  | tick n => exact ok.ticks n
  | memRead a => exact ok.memRead s.powerOns d a
  | memWrite a v => exact ok.memWrite a v
  | insert image id1 id2 => exact ok.insert config image id1 id2
  | eject => exact ok.eject
  | mechWrite v => exact ok.mechWrite v
  | track t b b' range disk found effect => exact ok.trackEffect config range found effect
  | reset => exact .reset config.toConfigOk ok.romForm ok.romRange
  | same | pic1 | pic2 | atnIn | clkIn | dataIn | setWp => exact ok.congr rfl rfl rfl rfl rfl

/-! ### The well-formed block (R41) -/

/-- An operation keeps the attached drives a strictly rising list of present ones. -/
theorem Effects.keeps_attached {i : Instr} {s t : State} (ok : StateOk s) (h : Effects i s t) :
    t.bus.attached.Pairwise (· < ·) ∧ ∀ d ∈ t.bus.attached, d < s.drives.length := by
  rcases h.attached with same | ⟨e, present, joined⟩ | ⟨e, left⟩ | empty
  · rw [same]
    exact ⟨ok.rising, ok.present⟩
  · rw [joined]
    refine ⟨attachIndex_rising e _ ok.rising, fun d hd => ?_⟩
    rcases (mem_attachIndex e d _).mp hd with rfl | hd
    · exact present
    · exact ok.present d hd
  · rw [left]
    exact ⟨ok.rising.filter _, fun d hd => ok.present d (List.mem_of_mem_filter hd)⟩
  · rw [empty]
    exact ⟨.nil, fun d hd => by cases hd⟩

/-- What a drive holds after an operation is an effect of the operation on what it held before. -/
theorem Effects.drive_before {i : Instr} {s t : State} (h : Effects i s t) {d : Nat} {y : Drive}
    (hy : t.drives[d]? = some y) :
    ∃ x, s.drives[d]? = some x ∧ DriveEffect i s d x y := by
  have hd : d < s.drives.length := h.count ▸ (List.getElem?_eq_some_iff.mp hy).1
  exact ⟨_, List.getElem?_eq_getElem hd, h.drives d _ y (List.getElem?_eq_getElem hd) hy⟩

/-- Every operation keeps the block well formed. -/
theorem Effects.keeps_ok {i : Instr} {s t : State} (ok : StateOk s) (h : Effects i s t) : StateOk t where
  config := h.cfg ▸ ok.config
  count := by rw [h.count, h.cfg]; exact ok.count
  rising := (h.keeps_attached ok).1
  present := by rw [h.count]; exact (h.keeps_attached ok).2
  drives y hy := by
    obtain ⟨d, hd⟩ := List.mem_iff_getElem?.mp hy
    obtain ⟨x, hx, effect⟩ := h.drive_before hd
    rw [h.cfg]
    exact effect.keeps_ok ok.config (ok.drives x (List.mem_of_getElem? hx))

/-- What a step can do: nothing, or one operation after the request was taken. -/
theorem step_next {s t : State} (h : step s = .next t) :
    t = s ∨ ∃ i rest, exec i { s with pending := rest } = .next t := by
  unfold step fetch at h
  cases hp : s.pending with
  | nil =>
    rw [hp] at h
    cases h
    exact .inl rfl
  | cons r rest =>
    rw [hp] at h
    simp only at h
    split at h
    · cases h
    · exact .inr ⟨_, rest, h⟩

/-- Settles O56: a step is an operation on the block without its first request, and every effect of an operation keeps
the block well formed. -/
theorem everyStepKeepsTheBlockWellFormed : Obligations.EveryStepKeepsTheBlockWellFormed := by
  unfold Obligations.EveryStepKeepsTheBlockWellFormed
  intro s t ok h
  rcases step_next h with rfl | ⟨i, rest, h⟩
  · exact ok
  · have taken : StateOk { s with pending := rest } := ⟨ok.config, ok.count, ok.rising, ok.present, ok.drives⟩
    exact (exec_effects i _ t h).keeps_ok taken

/-! ### The state after RESET (R61, R350) -/

/-- Setting a bit of the all-ones byte changes nothing. -/
theorem setBit_ones (i : Nat) : setBit 0xFF#8 i true = 0xFF#8 := BitVec.allOnes_or

/-- PIC2's inputs with neither a sync run nor write protection are all 1 (R293). -/
theorem pic2Inputs_released (cfg : Config) : pic2Inputs cfg false false = 0xFF#8 := by
  simp only [pic2Inputs, Bool.not_false, setBit_ones]

/-- PIC1's inputs with every line released, for the default bit numbers (R213). -/
theorem pic1Inputs_released (cfg : Config)
    (pins : cfg.bDataIn = 0 ∧ cfg.bDataOut = 1 ∧ cfg.bClkIn = 2 ∧ cfg.bClkOut = 3 ∧ cfg.bAtnIn = 7) :
    pic1Inputs cfg false false false = 0#1 ++ cfg.deviceAddrBits ++ 0b11010#5 := by
  obtain ⟨dataIn, dataOut, clkIn, clkOut, atnIn⟩ := pins
  rw [pic1Inputs, dataIn, dataOut, clkIn, clkOut, atnIn]
  generalize cfg.deviceAddrBits = address
  revert address
  decide

/-- No interrupt output of a drive is active after reset. -/
theorem Drive.reset_irq (cfg : Config) (rom : Memory) : (Drive.reset cfg rom).irq = false := by
  simp [Drive.irq, Pic.irq, Drive.reset, Pic.reset]

/-- The mechanics of a drive after reset follow the port, which shows 0. -/
theorem MechanicsFollow.reset (cfg : Config) (rom : Memory) : MechanicsFollow cfg (Drive.reset cfg rom) where
  phase := by simp [portPhase, Drive.reset, Pic.reset]
  motor := by simp [portMotor, Drive.reset, Pic.reset]
  led := by simp [portLed, Drive.reset, Pic.reset]

/-- The pins of a drive after reset are as wired. -/
theorem PinsWired.reset (cfg : Config) (rom : Memory) : PinsWired cfg (Drive.reset cfg rom) := ⟨rfl, rfl, rfl, rfl⟩

/-- Settles O26: RESET is the power-on state, whose pieces are those of the table by definition; only the wired inputs
of the two port Bs are computed. -/
theorem resetGivesEveryPieceOfStateItsTabledValue : Obligations.ResetGivesEveryPieceOfStateItsTabledValue := by
  unfold Obligations.ResetGivesEveryPieceOfStateItsTabledValue
  intro s
  refine ⟨State.powerOn s.cfg (s.drives.map Drive.rom) (s.powerOns + 1) s.pending, rfl, rfl, rfl, rfl,
    by simp [State.powerOn], rfl, rfl, ⟨rfl, fun d x hx => ?_⟩, rfl⟩
  refine ⟨Drive.reset s.cfg x.rom, pic1Inputs s.cfg false false false, by simp [State.powerOn, hx], ?_,
    pic1Inputs_released s.cfg, fun _ => rfl, fun _ => rfl, Drive.reset_irq s.cfg x.rom⟩
  exact congrArg (fun inb => { Drive.reset s.cfg x.rom with pic2 := Pic.reset 0x00 inb }) (pic2Inputs_released s.cfg)

/-- Every drive of the reset state is the reset drive with no known firmware byte. -/
theorem State.reset_drives_eq {x : Drive} (h : x ∈ State.reset.drives) : x = Drive.reset Config.default [] := by
  obtain ⟨rom, hrom, rfl⟩ := List.mem_map.mp h
  rw [List.eq_of_mem_replicate hrom]

/-- Settles O58, from the laws of a drive after reset. -/
theorem resetMeetsEveryInvariant : Obligations.ResetMeetsEveryInvariant := by
  unfold Obligations.ResetMeetsEveryInvariant
  refine ⟨⟨Config.default_usable, rfl, .nil, fun d hd => (by cases hd), fun x hx => ?_⟩, fun x hx => ?_⟩
  · rw [State.reset_drives_eq hx]
    exact .reset Config.default_ok rfl rfl
  · rw [State.reset_drives_eq hx]
    exact ⟨.reset _ _, .reset _ _⟩

end Sys2Proof.Machine

/-! PROOFS. The family of spec/20_memory.md: where a step takes its operation from (R85). -/

namespace Sys2Proof.Machine

/-! ### Fetch -/

theorem fetch_of_pending_nil {s : State} (h : s.pending = []) : fetch s = none := by
  rw [fetch, h]

theorem fetch_of_pending_cons {s : State} {r : Request} {rest : List Request} (h : s.pending = r :: rest) :
    fetch s = some (r, { s with pending := rest }) := by
  rw [fetch, h]

/-- The request put in front is the one that is fetched, and what remains is the state it was put in front of. -/
@[simp] theorem fetch_withFetchWord (s : State) (nbits w : Nat) :
    fetch (s.withFetchWord nbits w) = some (tableRequest nbits w, s) :=
  fetch_of_pending_cons rfl

/-- A table word gives an operation exactly where its request decodes to that operation. -/
theorem decodeTableWord_eq_some_iff (nbits w : Nat) (i : Instr) :
    decodeTableWord nbits w = some i ↔ decode (tableRequest nbits w) = .ok i := by
  unfold decodeTableWord
  cases decode (tableRequest nbits w) <;> simp

/-! ### The three outcomes of a step -/

theorem step_of_fetch_none {s : State} (h : fetch s = none) : step s = .next s := by
  rw [step, h]

theorem step_of_decode_error {s rest : State} {r : Request} {e : DecodeError} (fetched : fetch s = some (r, rest))
    (decoded : decode r = .error e) : step s = .refused (.notAnOperation e) := by
  simp only [step, fetched, decoded]

theorem step_of_decode_ok {s rest : State} {r : Request} {i : Instr} (fetched : fetch s = some (r, rest))
    (decoded : decode r = .ok i) : step s = exec i rest := by
  simp only [step, fetched, decoded]

/-- Settles O4: each clause is one of the three outcomes of a step, after what fetch gives for its queue. -/
theorem stepRunsTheNextRequest : Obligations.StepRunsTheNextRequest := by
  unfold Obligations.StepRunsTheNextRequest
  refine ⟨fun s r rest i queue decoded => ?_, fun s r rest e queue decoded => ?_, fun s empty => ?_,
    fun s nbits w i decoded => ?_⟩
  · exact step_of_decode_ok (fetch_of_pending_cons queue) decoded
  · exact step_of_decode_error (fetch_of_pending_cons queue) decoded
  · exact step_of_fetch_none (fetch_of_pending_nil empty)
  · exact step_of_decode_ok (fetch_withFetchWord s nbits w) ((decodeTableWord_eq_some_iff nbits w i).mp decoded)

end Sys2Proof.Machine

/-! PROOFS. The family of spec/30_encoding.md: the decoder and the encoder (R102, R103, R110). -/

namespace Sys2Proof

/-! ### Operands: the decoder's operand forms on what the encoder writes -/

@[simp] theorem take0_nil (i : Instr) : take0 i [] = .ok i := rfl

@[simp] theorem take1_one (f : Nat → Instr) (a : Nat) : take1 f [a] = .ok (f a) := rfl

@[simp] theorem take2_two (f : Nat → Nat → Instr) (a b : Nat) : take2 f [a, b] = .ok (f a b) := rfl

@[simp] theorem take3_three (f : Nat → Nat → Nat → Instr) (a b c : Nat) : take3 f [a, b, c] = .ok (f a b c) := rfl

@[simp] theorem take4_four (f : Nat → Nat → Nat → Nat → Instr) (a b c d : Nat) :
    take4 f [a, b, c, d] = .ok (f a b c d) := rfl

@[simp] theorem take5_five (f : Nat → Nat → Nat → Nat → Nat → Instr) (a b c d e : Nat) :
    take5 f [a, b, c, d, e] = .ok (f a b c d e) := rfl

@[simp] theorem levelOf_levelArg (b : Bool) : levelOf (levelArg b) = b := by cases b <;> rfl

@[simp] theorem length_bytesArg (bytes : List Byte) : (bytesArg bytes).length = bytes.length := List.length_map ..

@[simp] theorem map_byteOf_bytesArg (bytes : List Byte) : (bytesArg bytes).map byteOf = bytes := by
  simp [bytesArg, Function.comp_def]

theorem takeBytes_bytesArg {n : Nat} {bytes : List Byte} (length : bytes.length = n) (f : List Byte → Instr) :
    takeBytes n f (bytesArg bytes) = .ok (f bytes) := by
  simp [takeBytes, length]

theorem Image.wellFormed_cons {e : ImageSector} {image : Image} :
    Image.wellFormed (e :: image) = true ↔ e.bytes.length = 256 ∧ Image.wellFormed image = true := by
  simp [Image.wellFormed]

theorem takeSectors_sectorsArg {image : Image} (total : Image.wellFormed image = true) (left : List Nat) :
    takeSectors image.length (sectorsArg image ++ left) = some (image, left) := by
  induction image with
  | nil => rfl
  | cons e image ih =>
    obtain ⟨whole, total⟩ := Image.wellFormed_cons.mp total
    have bytes : (bytesArg e.bytes).length = 256 := (length_bytesArg _).trans whole
    simp [sectorsArg, takeSectors, bytes, ih total]

theorem takeImage_imageArg {image : Image} (total : Image.wellFormed image = true) (left : List Nat)
    (f : Image → List Nat → Except DecodeError Instr) : takeImage f (imageArg image ++ left) = f image left := by
  simp [takeImage, imageArg, takeSectors_sectorsArg total]

/-- What is read as an image is well formed: each of its sectors took 256 operands. -/
theorem wellFormed_of_takeSectors {k : Nat} {args left : List Nat} {image : Image}
    (taken : takeSectors k args = some (image, left)) : Image.wellFormed image = true := by
  fun_induction takeSectors k args generalizing image left with
  | case1 => cases taken; rfl
  | case2 => cases taken
  | case3 k t n rest enough image' left' taken' ih =>
    cases taken
    exact Image.wellFormed_cons.mpr ⟨by simp; omega, ih taken'⟩
  | case4 => cases taken
  | case5 => cases taken

/-! ### Selectors and their fields (R102) -/

/-- The selector of class 00: `00 w c rrrr`. -/
def accessSelector (w second : Bool) (index : BitVec 4) : BitVec 8 :=
  0b00#2 ++ BitVec.ofBool w ++ BitVec.ofBool second ++ index

/-- The selector of class 01: `01 c kkkk s`. -/
def pinSelector (second : Bool) (kind : BitVec 4) (level : Bool) : BitVec 8 :=
  0b01#2 ++ BitVec.ofBool second ++ kind ++ BitVec.ofBool level

/-- The selector of classes 10 and 11: `1x kkkkkk`. -/
def kindSelector (cls : BitVec 2) (kind : BitVec 6) : BitVec 8 := cls ++ kind

theorem accessRequest_eq (w : Bool) (index : BitVec 4) (c : ChipRef) (args : List Nat) :
    accessRequest w index c args = ⟨c.unitRef, accessSelector w c.second index, args⟩ := rfl

theorem pinRequest_eq (kind : BitVec 4) (level : Bool) (c : ChipRef) (args : List Nat) :
    pinRequest kind level c args = ⟨c.unitRef, pinSelector c.second kind level, args⟩ := rfl

theorem kindRequest_eq (cls : BitVec 2) (kind : BitVec 6) (args : List Nat) :
    kindRequest cls kind args = ⟨.drive 0, kindSelector cls kind, args⟩ := rfl

section Fields
variable (w second level : Bool) (index pin : BitVec 4) (cls : BitVec 2) (kind : BitVec 6) (opsel : BitVec 8)

theorem accessSelector_class : (accessSelector w second index).extractLsb' 6 2 = 0b00#2 := by
  revert w second index; decide

theorem accessSelector_write : (accessSelector w second index).getLsbD 5 = w := by
  revert w second index; decide

theorem accessSelector_second : (accessSelector w second index).getLsbD 4 = second := by
  revert w second index; decide

theorem accessSelector_index : (accessSelector w second index).extractLsb' 0 4 = index :=
  BitVec.extractLsb'_append_eq_right

theorem pinSelector_class : (pinSelector second pin level).extractLsb' 6 2 = 0b01#2 := by
  revert second pin level; decide

theorem pinSelector_second : (pinSelector second pin level).getLsbD 5 = second := by
  revert second pin level; decide

theorem pinSelector_kind : (pinSelector second pin level).extractLsb' 1 4 = pin := by
  revert second pin level; decide

theorem pinSelector_level : (pinSelector second pin level).getLsbD 0 = level := by
  revert second pin level; decide

theorem kindSelector_class : (kindSelector cls kind).extractLsb' 6 2 = cls := BitVec.extractLsb'_append_eq_left

theorem kindSelector_kind : (kindSelector cls kind).extractLsb' 0 6 = kind := BitVec.extractLsb'_append_eq_right

theorem kindSelector_eta : kindSelector (opsel.extractLsb' 6 2) (opsel.extractLsb' 0 6) = opsel :=
  (BitVec.extractLsb'_append_extractLsb'_eq_extractLsb' rfl).trans BitVec.extractLsb'_eq_self

theorem accessSelector_eta :
    accessSelector (kind.getLsbD 5) (kind.getLsbD 4) (kind.extractLsb' 0 4) = kindSelector 0b00#2 kind := by
  revert kind; decide

theorem pinSelector_eta :
    pinSelector (kind.getLsbD 5) (kind.extractLsb' 1 4) (kind.getLsbD 0) = kindSelector 0b01#2 kind := by
  revert kind; decide

theorem class_toNat : (opsel.extractLsb' 6 2).toNat = opsel.toNat / 64 := by
  have := opsel.isLt
  rw [BitVec.extractLsb'_toNat, Nat.shiftRight_eq_div_pow]
  omega

theorem kind_toNat : (opsel.extractLsb' 0 6).toNat = opsel.toNat % 64 := by
  rw [BitVec.extractLsb'_toNat, Nat.shiftRight_zero]

theorem pinKind_toNat : (opsel.extractLsb' 1 4).toNat = opsel.toNat % 32 / 2 := by
  rw [BitVec.extractLsb'_toNat, Nat.shiftRight_eq_div_pow]
  omega

theorem pinLevel_iff : opsel.getLsbD 0 = true ↔ opsel.toNat % 2 = 1 := by
  rw [← BitVec.testBit_toNat, Nat.testBit_zero, decide_eq_true_iff]

end Fields

/-- Every selector is of one of the four classes, put together from its fields. -/
theorem selector_cases (opsel : BitVec 8) :
    (∃ w second index, opsel = accessSelector w second index) ∨
    (∃ second kind level, opsel = pinSelector second kind level) ∨
    (∃ kind, opsel = kindSelector 0b10#2 kind) ∨ ∃ kind, opsel = kindSelector 0b11#2 kind := by
  rw [← kindSelector_eta opsel]
  generalize opsel.extractLsb' 0 6 = kind
  match opsel.extractLsb' 6 2 with
  | 0b00 => exact .inl ⟨_, _, _, (accessSelector_eta kind).symm⟩
  | 0b01 => exact .inr (.inl ⟨_, _, _, (pinSelector_eta kind).symm⟩)
  | 0b10 => exact .inr (.inr (.inl ⟨kind, rfl⟩))
  | 0b11 => exact .inr (.inr (.inr ⟨kind, rfl⟩))

/-! ### The decoder on each class (R102) -/

@[simp] theorem chipOf_unitRef_second (c : ChipRef) : chipOf c.unitRef c.second = .ok c := by cases c <;> rfl

theorem second_of_chipOf {u : UnitRef} {b : Bool} {c : ChipRef} (h : chipOf u b = .ok c) : c.second = b := by
  match u, b, h with
  | .standalone, false, rfl => rfl
  | .drive _, false, rfl => rfl
  | .drive _, true, rfl => rfl

theorem exists_chipOf_drive (d : Nat) (b : Bool) : ∃ c, chipOf (.drive d) b = .ok c := by
  cases b <;> exact ⟨_, rfl⟩

section Classes
variable (u : UnitRef) (w second level : Bool) (index pin : BitVec 4) (kind : BitVec 6) (args : List Nat)

theorem decode_accessSelector_of_chip_error {e : DecodeError} (chip : chipOf u second = .error e) :
    decode ⟨u, accessSelector w second index, args⟩ = .error e := by
  rw [decode, accessSelector_class]
  simp only [BitVec.toNat_ofNat, Nat.zero_mod, decodeAccess, accessSelector_second, chip]

theorem decode_accessSelector {c : ChipRef} (chip : chipOf u second = .ok c) :
    decode ⟨u, accessSelector w second index, args⟩ =
      if w then take1 (fun v => writeInstr index.toNat c (byteOf v)) args
      else take0 (readInstr index.toNat c) args := by
  rw [decode, accessSelector_class]
  simp only [BitVec.toNat_ofNat, Nat.zero_mod, decodeAccess, accessSelector_write, accessSelector_second,
    accessSelector_index, chip]

theorem decode_pinSelector :
    decode ⟨u, pinSelector second pin level, args⟩ = decodePins ⟨u, pinSelector second pin level, args⟩ := by
  rw [decode, pinSelector_class]; rfl

theorem decode_busSelector :
    decode ⟨u, kindSelector 0b10#2 kind, args⟩ = decodeBus ⟨u, kindSelector 0b10#2 kind, args⟩ := by
  rw [decode, kindSelector_class]; rfl

theorem decode_codecSelector :
    decode ⟨u, kindSelector 0b11#2 kind, args⟩ = decodeCodec ⟨u, kindSelector 0b11#2 kind, args⟩ := by
  rw [decode, kindSelector_class]; rfl

end Classes

/-! ### Decoding what was encoded -/

theorem encode_readInstr (index : BitVec 4) (c : ChipRef) :
    encode (readInstr index.toNat c) = accessRequest false index c [] := by
  obtain ⟨⟨k, bound⟩⟩ := index
  interval_cases k <;> rfl

theorem encode_writeInstr (index : BitVec 4) (c : ChipRef) (v : Byte) :
    encode (writeInstr index.toNat c v) = accessRequest true index c [v.toNat] := by
  obtain ⟨⟨k, bound⟩⟩ := index
  interval_cases k <;> rfl

theorem decode_readRequest (index : BitVec 4) (c : ChipRef) :
    decode (accessRequest false index c []) = .ok (readInstr index.toNat c) :=
  decode_accessSelector _ _ _ _ _ (chipOf_unitRef_second c)

theorem decode_writeRequest (index : BitVec 4) (c : ChipRef) (v : Byte) :
    decode (accessRequest true index c [v.toNat]) = .ok (writeInstr index.toNat c v) := by
  rw [accessRequest_eq, decode_accessSelector _ _ _ _ _ (chipOf_unitRef_second c)]
  simp

/-- Settles O1: the selector's fields are read back as they were put together, and the operands as they were listed;
only the byte strings and the images need that the operation is well formed. -/
theorem decodeOfEncodeIsTheOperation : Obligations.DecodeOfEncodeIsTheOperation := by
  unfold Obligations.DecodeOfEncodeIsTheOperation
  intro i total
  cases i with
  | rdOrb c | rdOra c | rdDdrb c | rdDdra c | rdT1cl c | rdT1ch c | rdT1ll c | rdT1lh c | rdT2cl c | rdT2ch c | rdSr c
  | rdAcr c | rdPcr c | rdIfr c | rdIer c | rdOranh c => exact decode_readRequest _ c
  | wrOrb c v | wrOra c v | wrDdrb c v | wrDdra c v | wrT1cl c v | wrT1ch c v | wrT1ll c v | wrT1lh c v | wrT2cl c v
  | wrT2ch c v | wrSr c v | wrAcr c v | wrPcr c v | wrIfr c v | wrIer c v | wrOranh c v =>
    exact decode_writeRequest _ c v
  | setCa1 | setCa2 | setCb1 | setCb2 | setPaIn | setPbIn | tick | resetPic =>
    simp only [encode, pinRequest_eq, decode_pinSelector, decodePins, pinSelector_kind, pinSelector_level,
      pinSelector_second, chipOf_unitRef_second]
    simp
  | hostSet | busUpdate | busGetHostInput | busTick | busAttach | busDetach | drvGetClkOut | drvGetDataOut
  | drvSetAtnIn | drvSetClkIn | drvSetDataIn | drvTick | drvMemrd | drvMemwr | drvEject | drvSetWp | reset
  | mechWrite => simp [encode, kindRequest_eq, decode_busSelector, decodeBus, kindSelector_kind]
  | drvInsert =>
    simp [encode, kindRequest_eq, decode_busSelector, decodeBus, kindSelector_kind, takeImage_imageArg total]
  | gcrEncGroup | gcrDecGroup | gcrEncHeader | trkReadByte | trkWriteByte | trkIsSync =>
    simp [encode, kindRequest_eq, decode_codecSelector, decodeCodec, kindSelector_kind, bytesArg]
  | gcrDecHeader | gcrEncData | gcrDecData =>
    simp only [Instr.wellFormed, beq_iff_eq] at total
    simp [encode, kindRequest_eq, decode_codecSelector, decodeCodec, kindSelector_kind, takeBytes_bytesArg total]
  | trkBuild | trkUpdateSector =>
    simp [encode, kindRequest_eq, decode_codecSelector, decodeCodec, kindSelector_kind, takeImage_imageArg total]

/-! ### What is decoded has the selector it was decoded from -/

/-- The operation is well formed and its selector is `opsel`. -/
structure OfSelector (opsel : BitVec 8) (i : Instr) : Prop where
  selector : (encode i).opsel = opsel
  wellFormed : i.wellFormed = true

/-- If the result of decoding is an operation, it is a well-formed one with the selector `opsel`. -/
structure OnlyOfSelector (opsel : BitVec 8) (result : Except DecodeError Instr) : Prop where
  of_ok : ∀ i, result = .ok i → OfSelector opsel i

section Operands
variable {opsel : BitVec 8} {args : List Nat}

theorem onlyOfSelector_error (e : DecodeError) : OnlyOfSelector opsel (.error e) := ⟨nofun⟩

theorem onlyOfSelector_take0 {i : Instr} (own : OfSelector opsel i) : OnlyOfSelector opsel (take0 i args) where
  of_ok _ decoded := by match args, decoded with | [], rfl => exact own

theorem onlyOfSelector_take1 {f : Nat → Instr} (own : ∀ a, OfSelector opsel (f a)) :
    OnlyOfSelector opsel (take1 f args) where
  of_ok _ decoded := by match args, decoded with | [_], rfl => exact own _

theorem onlyOfSelector_take2 {f : Nat → Nat → Instr} (own : ∀ a b, OfSelector opsel (f a b)) :
    OnlyOfSelector opsel (take2 f args) where
  of_ok _ decoded := by match args, decoded with | [_, _], rfl => exact own _ _

theorem onlyOfSelector_take3 {f : Nat → Nat → Nat → Instr} (own : ∀ a b c, OfSelector opsel (f a b c)) :
    OnlyOfSelector opsel (take3 f args) where
  of_ok _ decoded := by match args, decoded with | [_, _, _], rfl => exact own _ _ _

theorem onlyOfSelector_take4 {f : Nat → Nat → Nat → Nat → Instr} (own : ∀ a b c d, OfSelector opsel (f a b c d)) :
    OnlyOfSelector opsel (take4 f args) where
  of_ok _ decoded := by match args, decoded with | [_, _, _, _], rfl => exact own _ _ _ _

theorem onlyOfSelector_take5 {f : Nat → Nat → Nat → Nat → Nat → Instr}
    (own : ∀ a b c d e, OfSelector opsel (f a b c d e)) : OnlyOfSelector opsel (take5 f args) where
  of_ok _ decoded := by match args, decoded with | [_, _, _, _, _], rfl => exact own _ _ _ _ _

theorem onlyOfSelector_takeBytes {n : Nat} {f : List Byte → Instr}
    (own : ∀ bytes : List Byte, bytes.length = n → OfSelector opsel (f bytes)) :
    OnlyOfSelector opsel (takeBytes n f args) := by
  unfold takeBytes
  split
  case isTrue length => exact ⟨by rintro _ ⟨⟩; exact own _ ((List.length_map _).trans length)⟩
  case isFalse => exact onlyOfSelector_error _

theorem onlyOfSelector_takeImage {f : Image → List Nat → Except DecodeError Instr}
    (own : ∀ image left, Image.wellFormed image = true → OnlyOfSelector opsel (f image left)) :
    OnlyOfSelector opsel (takeImage f args) := by
  unfold takeImage
  split
  · exact onlyOfSelector_error _
  · split
    case h_1 taken => exact own _ _ (wellFormed_of_takeSectors taken)
    case h_2 => exact onlyOfSelector_error _

end Operands

theorem wellFormed_readInstr (k : Nat) (c : ChipRef) : (readInstr k c).wellFormed = true := by
  unfold readInstr; split <;> rfl

theorem wellFormed_writeInstr (k : Nat) (c : ChipRef) (v : Byte) : (writeInstr k c v).wellFormed = true := by
  unfold writeInstr; split <;> rfl

theorem onlyOfSelector_accessSelector (u : UnitRef) (w second : Bool) (index : BitVec 4) (args : List Nat) :
    OnlyOfSelector (accessSelector w second index) (decode ⟨u, accessSelector w second index, args⟩) := by
  cases chip : chipOf u second with
  | error e =>
    rw [decode_accessSelector_of_chip_error _ _ _ _ _ chip]
    exact onlyOfSelector_error e
  | ok c =>
    rw [decode_accessSelector _ _ _ _ _ chip, ← second_of_chipOf chip]
    cases w with
    | false =>
      exact onlyOfSelector_take0 ⟨congrArg Request.opsel (encode_readInstr index c), wellFormed_readInstr ..⟩
    | true =>
      exact onlyOfSelector_take1
        (fun v => ⟨congrArg Request.opsel (encode_writeInstr index c (byteOf v)), wellFormed_writeInstr ..⟩)

theorem pinSelector_ofNat {pin : BitVec 4} {k : Nat} (eq : pin.toNat = k) (second level : Bool) :
    pinSelector second (BitVec.ofNat 4 k) level = pinSelector second pin level := by
  rw [← eq, BitVec.ofNat_toNat, BitVec.setWidth_eq]

theorem kindSelector_ofNat {kind : BitVec 6} {k : Nat} (eq : kind.toNat = k) (cls : BitVec 2) :
    kindSelector cls (BitVec.ofNat 6 k) = kindSelector cls kind := by
  rw [← eq, BitVec.ofNat_toNat, BitVec.setWidth_eq]

theorem onlyOfSelector_pinSelector (u : UnitRef) (second level : Bool) (pin : BitVec 4) (args : List Nat) :
    OnlyOfSelector (pinSelector second pin level) (decode ⟨u, pinSelector second pin level, args⟩) := by
  rw [decode_pinSelector]
  simp only [decodePins, pinSelector_second, pinSelector_kind, pinSelector_level]
  cases chip : chipOf u second with
  | error e => exact onlyOfSelector_error e
  | ok c =>
    obtain rfl := second_of_chipOf chip
    dsimp only
    split
    case h_1 eq | h_2 eq | h_3 eq | h_4 eq | h_8 eq =>
      exact onlyOfSelector_take0 ⟨pinSelector_ofNat eq _ _, rfl⟩
    case h_5 eq | h_6 eq | h_7 eq => exact onlyOfSelector_take1 (fun _ => ⟨pinSelector_ofNat eq _ _, rfl⟩)
    case h_9 | h_10 | h_11 | h_12 | h_13 => exact onlyOfSelector_error _

theorem onlyOfSelector_busSelector (u : UnitRef) (kind : BitVec 6) (args : List Nat) :
    OnlyOfSelector (kindSelector 0b10#2 kind) (decode ⟨u, kindSelector 0b10#2 kind, args⟩) := by
  rw [decode_busSelector, decodeBus, kindSelector_kind]
  split
  case h_2 eq | h_3 eq | h_18 eq => exact onlyOfSelector_take0 ⟨kindSelector_ofNat eq _, rfl⟩
  case h_4 eq | h_5 eq | h_6 eq | h_7 eq | h_8 eq | h_16 eq =>
    exact onlyOfSelector_take1 (fun _ => ⟨kindSelector_ofNat eq _, rfl⟩)
  case h_9 eq | h_10 eq | h_11 eq | h_12 eq | h_13 eq | h_17 eq | h_19 eq =>
    exact onlyOfSelector_take2 (fun _ _ => ⟨kindSelector_ofNat eq _, rfl⟩)
  case h_1 eq | h_14 eq => exact onlyOfSelector_take3 (fun _ _ _ => ⟨kindSelector_ofNat eq _, rfl⟩)
  case h_15 eq =>
    split
    · exact onlyOfSelector_takeImage (fun _ _ total =>
        onlyOfSelector_take2 (fun _ _ => ⟨kindSelector_ofNat eq _, total⟩))
    · exact onlyOfSelector_error _
  case h_20 => exact onlyOfSelector_error _

theorem onlyOfSelector_codecSelector (u : UnitRef) (kind : BitVec 6) (args : List Nat) :
    OnlyOfSelector (kindSelector 0b11#2 kind) (decode ⟨u, kindSelector 0b11#2 kind, args⟩) := by
  rw [decode_codecSelector, decodeCodec, kindSelector_kind]
  split
  case h_1 eq | h_3 eq => exact onlyOfSelector_take4 (fun _ _ _ _ => ⟨kindSelector_ofNat eq _, rfl⟩)
  case h_2 eq => exact onlyOfSelector_take5 (fun _ _ _ _ _ => ⟨kindSelector_ofNat eq _, rfl⟩)
  case h_4 eq | h_5 eq | h_6 eq =>
    exact onlyOfSelector_takeBytes (fun _ length => ⟨kindSelector_ofNat eq _, beq_iff_eq.mpr length⟩)
  case h_7 eq | h_9 eq => exact onlyOfSelector_take2 (fun _ _ => ⟨kindSelector_ofNat eq _, rfl⟩)
  case h_8 eq => exact onlyOfSelector_take3 (fun _ _ _ => ⟨kindSelector_ofNat eq _, rfl⟩)
  case h_10 eq =>
    split
    · exact onlyOfSelector_takeImage (fun _ _ total =>
        onlyOfSelector_take2 (fun _ _ => ⟨kindSelector_ofNat eq _, total⟩))
    · exact onlyOfSelector_error _
  case h_11 eq =>
    split
    · exact onlyOfSelector_takeImage (fun _ _ total =>
        onlyOfSelector_take3 (fun _ _ _ => ⟨kindSelector_ofNat eq _, total⟩))
    · exact onlyOfSelector_error _
  case h_12 => exact onlyOfSelector_error _

/-- The decoder gives only well-formed operations, each from its own selector. -/
theorem onlyOfSelector_decode (r : Request) : OnlyOfSelector r.opsel (decode r) := by
  obtain ⟨u, opsel, args⟩ := r
  obtain ⟨w, second, index, rfl⟩ | ⟨second, pin, level, rfl⟩ | ⟨kind, rfl⟩ | ⟨kind, rfl⟩ := selector_cases opsel
  · exact onlyOfSelector_accessSelector u w second index args
  · exact onlyOfSelector_pinSelector u second level pin args
  · exact onlyOfSelector_busSelector u kind args
  · exact onlyOfSelector_codecSelector u kind args

/-! ### Reserved selectors (R110) -/

/-- The selectors that R102 and R103 give no operation: the kinds of class 01 from 8, a level on those from 4, the kinds
of class 10 from 19 and those of class 11 from 11. -/
def SelectorReserved (opsel : BitVec 8) : Prop :=
  (64 ≤ opsel.toNat ∧ opsel.toNat < 128 ∧
      (8 ≤ opsel.toNat % 32 / 2 ∨ (4 ≤ opsel.toNat % 32 / 2 ∧ opsel.toNat % 2 = 1))) ∨
    (147 ≤ opsel.toNat ∧ opsel.toNat < 192) ∨ 203 ≤ opsel.toNat

theorem not_selectorReserved_access (w second : Bool) (index : BitVec 4) :
    ¬ SelectorReserved (accessSelector w second index) := by
  have cls := class_toNat (accessSelector w second index)
  simp only [accessSelector_class, BitVec.toNat_ofNat] at cls
  unfold SelectorReserved
  omega

theorem selectorReserved_pin_iff (second level : Bool) (pin : BitVec 4) :
    SelectorReserved (pinSelector second pin level) ↔ 8 ≤ pin.toNat ∨ (4 ≤ pin.toNat ∧ level = true) := by
  have cls := class_toNat (pinSelector second pin level)
  simp only [pinSelector_class, BitVec.toNat_ofNat] at cls
  rw [SelectorReserved, ← pinKind_toNat, ← pinLevel_iff, pinSelector_kind, pinSelector_level]
  grind

theorem selectorReserved_bus_iff (kind : BitVec 6) :
    SelectorReserved (kindSelector 0b10#2 kind) ↔ 19 ≤ kind.toNat := by
  have cls := class_toNat (kindSelector 0b10#2 kind)
  have low := kind_toNat (kindSelector 0b10#2 kind)
  simp only [kindSelector_class, kindSelector_kind, BitVec.toNat_ofNat] at cls low
  unfold SelectorReserved
  omega

theorem selectorReserved_codec_iff (kind : BitVec 6) :
    SelectorReserved (kindSelector 0b11#2 kind) ↔ 11 ≤ kind.toNat := by
  have cls := class_toNat (kindSelector 0b11#2 kind)
  have low := kind_toNat (kindSelector 0b11#2 kind)
  simp only [kindSelector_class, kindSelector_kind, BitVec.toNat_ofNat] at cls low
  unfold SelectorReserved
  omega

theorem decode_pinSelector_reserved (u : UnitRef) (second level : Bool) (pin : BitVec 4) (args : List Nat)
    (reserved : 8 ≤ pin.toNat ∨ (4 ≤ pin.toNat ∧ level = true)) :
    ∃ e, decode ⟨u, pinSelector second pin level, args⟩ = .error e := by
  rw [decode_pinSelector]
  simp only [decodePins, pinSelector_second, pinSelector_kind, pinSelector_level]
  cases chipOf u second with
  | error e => exact ⟨e, rfl⟩
  | ok c =>
    dsimp only
    split
    case h_1 | h_2 | h_3 | h_4 => omega
    case h_5 eq | h_6 eq | h_7 eq | h_8 eq => simp [eq] at reserved
    case h_9 | h_10 | h_11 | h_12 | h_13 => exact ⟨_, rfl⟩

theorem decode_busSelector_reserved (u : UnitRef) (kind : BitVec 6) (args : List Nat) (reserved : 19 ≤ kind.toNat) :
    decode ⟨u, kindSelector 0b10#2 kind, args⟩ = .error .reservedSelector := by
  rw [decode_busSelector, decodeBus, kindSelector_kind]
  obtain ⟨k, eq⟩ := Nat.exists_eq_add_of_le' reserved
  rw [eq]
  rfl

theorem decode_codecSelector_reserved (u : UnitRef) (kind : BitVec 6) (args : List Nat) (reserved : 11 ≤ kind.toNat) :
    decode ⟨u, kindSelector 0b11#2 kind, args⟩ = .error .reservedSelector := by
  rw [decode_codecSelector, decodeCodec, kindSelector_kind]
  obtain ⟨k, eq⟩ := Nat.exists_eq_add_of_le' reserved
  rw [eq]
  rfl

theorem exists_decode_accessSelector (w second : Bool) (index : BitVec 4) :
    ∃ args i, decode ⟨.drive 0, accessSelector w second index, args⟩ = .ok i := by
  obtain ⟨c, chip⟩ := exists_chipOf_drive 0 second
  simp only [decode_accessSelector _ _ _ _ _ chip]
  cases w with
  | false => exact ⟨[], _, rfl⟩
  | true => exact ⟨[0], _, rfl⟩

theorem exists_decode_pinSelector (second level : Bool) (pin : BitVec 4)
    (free : ¬ (8 ≤ pin.toNat ∨ (4 ≤ pin.toNat ∧ level = true))) :
    ∃ args i, decode ⟨.drive 0, pinSelector second pin level, args⟩ = .ok i := by
  obtain ⟨c, chip⟩ := exists_chipOf_drive 0 second
  simp only [decode_pinSelector, decodePins, pinSelector_second, pinSelector_kind, pinSelector_level, chip]
  split
  case h_1 | h_2 | h_3 | h_4 | h_8 => exact ⟨[], _, rfl⟩
  case h_5 | h_6 | h_7 => exact ⟨[0], _, rfl⟩
  case h_9 eq | h_10 eq | h_11 eq | h_12 eq => exact absurd (.inr ⟨by omega, rfl⟩) free
  case h_13 => grind

theorem exists_decode_busSelector (kind : BitVec 6) (free : ¬ 19 ≤ kind.toNat) :
    ∃ args i, decode ⟨.drive 0, kindSelector 0b10#2 kind, args⟩ = .ok i := by
  simp only [decode_busSelector, decodeBus, kindSelector_kind]
  split
  case h_2 | h_3 | h_18 => exact ⟨[], _, rfl⟩
  case h_4 | h_5 | h_6 | h_7 | h_8 | h_16 => exact ⟨[0], _, rfl⟩
  case h_9 | h_10 | h_11 | h_12 | h_13 | h_17 | h_19 => exact ⟨[0, 0], _, rfl⟩
  case h_1 | h_14 => exact ⟨[0, 0, 0], _, rfl⟩
  case h_15 => exact ⟨[0, 0, 0, 0], _, rfl⟩
  case h_20 => grind

theorem exists_decode_codecSelector (kind : BitVec 6) (free : ¬ 11 ≤ kind.toNat) :
    ∃ args i, decode ⟨.drive 0, kindSelector 0b11#2 kind, args⟩ = .ok i := by
  simp only [decode_codecSelector, decodeCodec, kindSelector_kind]
  split
  case h_4 | h_5 | h_6 => exact ⟨List.replicate _ 0, _, if_pos List.length_replicate⟩
  case h_7 | h_9 => exact ⟨[0, 0], _, rfl⟩
  case h_8 => exact ⟨[0, 0, 0], _, rfl⟩
  case h_1 | h_3 => exact ⟨[0, 0, 0, 0], _, rfl⟩
  case h_2 | h_10 => exact ⟨[0, 0, 0, 0, 0], _, rfl⟩
  case h_11 => exact ⟨[0, 0, 0, 0, 0, 0], _, rfl⟩
  case h_12 => grind

/-- A reserved selector is no operation, on any unit and with any operands. -/
theorem decode_of_selectorReserved {opsel : BitVec 8} (reserved : SelectorReserved opsel) (u : UnitRef)
    (args : List Nat) : ∃ e, decode ⟨u, opsel, args⟩ = .error e := by
  obtain ⟨w, second, index, rfl⟩ | ⟨second, pin, level, rfl⟩ | ⟨kind, rfl⟩ | ⟨kind, rfl⟩ := selector_cases opsel
  · exact absurd reserved (not_selectorReserved_access w second index)
  · exact decode_pinSelector_reserved u second level pin args ((selectorReserved_pin_iff ..).mp reserved)
  · exact ⟨_, decode_busSelector_reserved u kind args ((selectorReserved_bus_iff kind).mp reserved)⟩
  · exact ⟨_, decode_codecSelector_reserved u kind args ((selectorReserved_codec_iff kind).mp reserved)⟩

/-- Every selector that is not reserved is an operation of drive 0 for some operands. -/
theorem exists_decode_of_not_selectorReserved {opsel : BitVec 8} (free : ¬ SelectorReserved opsel) :
    ∃ args i, decode ⟨.drive 0, opsel, args⟩ = .ok i := by
  obtain ⟨w, second, index, rfl⟩ | ⟨second, pin, level, rfl⟩ | ⟨kind, rfl⟩ | ⟨kind, rfl⟩ := selector_cases opsel
  · exact exists_decode_accessSelector w second index
  · exact exists_decode_pinSelector second level pin (mt (selectorReserved_pin_iff ..).mpr free)
  · exact exists_decode_busSelector kind (mt (selectorReserved_bus_iff kind).mpr free)
  · exact exists_decode_codecSelector kind (mt (selectorReserved_codec_iff kind).mpr free)

/-- Settles O3: soundness of the decoder class by class, and for each class which of its selectors are reserved. -/
theorem selectorsDecodeExactlyAsTheMapSays : Obligations.SelectorsDecodeExactlyAsTheMapSays := by
  unfold Obligations.SelectorsDecodeExactlyAsTheMapSays
  refine ⟨fun r i decoded => ?_, fun opsel => ?_⟩
  · obtain ⟨selector, wellFormed⟩ := (onlyOfSelector_decode r).of_ok i decoded
    exact ⟨selector, wellFormed⟩
  · split
    case isTrue reserved =>
      intro s u args rest queue
      obtain ⟨e, decoded⟩ := decode_of_selectorReserved reserved u args
      exact ⟨e, decoded, Machine.step_of_decode_error (Machine.fetch_of_pending_cons queue) decoded⟩
    case isFalse free => exact exists_decode_of_not_selectorReserved free

/-- Settles O2: each word is evaluated. -/
theorem wordsOfTheOpcodeMapDecode : Obligations.WordsOfTheOpcodeMapDecode :=
  ⟨rfl, rfl, rfl, rfl, rfl, rfl, rfl, rfl, rfl⟩

end Sys2Proof

/-! PROOFS. The family of spec/40_pic_registers.md: what each register access of a chip returns, changes and keeps (R130 to
R164, R190, R303). -/

namespace Sys2Proof.Machine

/-! ### Replacing a drive or a chip whose value is known -/

/-- What an update of drive `d` does is decided by its value at the drive that is there. -/
theorem State.updateDrive_congr {s : State} {d : Nat} {x : Drive} (hx : s.drives[d]? = some x) {f g : Drive → Drive}
    (same : f x = g x) : s.updateDrive d f = s.updateDrive d g := by
  have drives : s.drives.modify d f = s.drives.modify d g := by
    apply List.ext_getElem?
    intro e
    rw [List.getElem?_modify, List.getElem?_modify]
    by_cases here : d = e
    · subst here; simp [hx, same]
    · simp [here]
  simp only [State.updateDrive, drives]

/-- An update that keeps the drive that is there changes nothing. -/
theorem State.updateDrive_eq_self {s : State} {d : Nat} {x : Drive} (hx : s.drives[d]? = some x) {f : Drive → Drive}
    (same : f x = x) : s.updateDrive d f = s := by
  rw [State.updateDrive_congr hx (g := id) same, State.updateDrive, List.modify_id]

/-- Replacing a chip by what it holds changes nothing. -/
theorem State.setChip_eq_self {s : State} {c : ChipRef} {p : Pic} (h : s.chipAt c = some p) : s.setChip c p = s := by
  cases c with
  | standalone => cases h; rfl
  | pic1 d =>
    obtain ⟨x, hx, rfl⟩ := Option.map_eq_some_iff.mp h
    exact State.updateDrive_eq_self hx rfl
  | pic2 d =>
    obtain ⟨x, hx, rfl⟩ := Option.map_eq_some_iff.mp h
    exact State.updateDrive_eq_self hx rfl

/-! ### The shared register accesses, by what they make of the chip -/

section Access

variable {s : State} {c : ChipRef} {p q : Pic} {v : Byte}

/-- A register read that gives byte `v` and makes `q` of the chip. -/
theorem readChip_eq {f : Pic → Byte × Pic} (h : s.chipAt c = some p) (answer : f p = (v, q)) :
    readChip c f s = .next ((s.setChip c q).returning (.byte v)) := by
  rw [readChip_of_some h, answer]

/-- A register read without a side effect. -/
theorem readChip_eq_of_unchanged {f : Pic → Byte × Pic} (h : s.chipAt c = some p) (answer : f p = (v, p)) :
    readChip c f s = .next (s.returning (.byte v)) := by
  rw [readChip_eq h answer, State.setChip_eq_self h]

/-- A register write that makes `q` of the chip. -/
theorem writeChip_eq {f : Pic → Pic} (h : s.chipAt c = some p) (change : f p = q) :
    writeChip c f s = .next ((s.setChip c q).returning .none) := by
  rw [writeChip_of_some h, change]

/-- Outside PIC2 of a drive a port B write is a register write like the others (R303). -/
theorem writePortB_eq_of_not_second {f : Pic → Pic} (h : s.chipAt c = some p) (second : c.second = false)
    (change : f p = q) : writePortB c f s = .next ((s.setChip c q).returning .none) := by
  rw [writePortB_of_some h, change]
  cases c with
  | standalone => rfl
  | pic1 d => rfl
  | pic2 d => cases second

/-- On PIC2 of a drive the mechanics see what port B presents after the write (R303). -/
theorem writePortB_pic2_eq {f : Pic → Pic} {d : Nat} {x : Drive} (hx : s.drives[d]? = some x) (change : f x.pic2 = q) :
    writePortB (.pic2 d) f s =
      .next ((s.updateDrive d fun _ => ({ x with pic2 := q } : Drive).mechWrite s.cfg (q.orb &&& q.ddrb)).returning
        .none) := by
  have chip : s.chipAt (.pic2 d) = some x.pic2 := by simp only [State.chipAt, hx, Option.map_some]
  subst change
  rw [writePortB_of_some chip, State.portHook, State.setChip_pic2, State.updateDrive_updateDrive,
    State.updateDrive_congr hx]
  rfl

end Access

/-! ### The selector of a register access (R102) -/

theorem accessRequest_read_opsel (index : BitVec 4) (c : ChipRef) (args : List Nat) :
    (accessRequest false index c args).opsel = 0b000#3 ++ BitVec.ofBool c.second ++ index := rfl

theorem accessRequest_write_opsel (index : BitVec 4) (c : ChipRef) (args : List Nat) :
    (accessRequest true index c args).opsel = 0b001#3 ++ BitVec.ofBool c.second ++ index := rfl

/-! ### Clearing flags (R132) -/

/-- Clearing first `ks` and then `ls` clears both. -/
theorem flagsCleared.trans {ks ls : List Nat} {f g h : Flags} (first : flagsCleared ks f g)
    (second : flagsCleared ls g h) : flagsCleared (ks ++ ls) f h := by
  intro i hi
  rw [second i hi, first i hi, List.mem_append, not_or, and_assoc]

theorem Pic.clearFlag_flagsCleared (p : Pic) (k : Nat) : flagsCleared [k] p.ifr (p.clearFlag k).ifr := by
  intro i hi
  rw [Pic.clearFlag_bit p k i hi, Bool.and_eq_true, Bool.not_eq_true', decide_eq_false_iff_not, List.mem_singleton]

/-- A chip after the access of a port that clears the primary line's flag, and the secondary line's unless `ctrl` is an
independent mode: the common form of ClearA and ClearB. -/
def Pic.clearPort (primary secondary : Nat) (ctrl : BitVec 3) (p : Pic) : Pic :=
  if independentMode ctrl then p.clearFlag primary else (p.clearFlag primary).clearFlag secondary

theorem Pic.clearA_eq_clearPort (p : Pic) : p.clearA = p.clearPort flagCa1 flagCa2 p.ca2Ctrl := rfl

theorem Pic.clearB_eq_clearPort (p : Pic) : p.clearB = p.clearPort flagCb1 flagCb2 p.cb2Ctrl := rfl

theorem independentMode_iff (ctrl : BitVec 3) : independentMode ctrl = true ↔ ctrl = 0b001#3 ∨ ctrl = 0b011#3 := by
  simp [independentMode]

/-- A port access clears exactly the flags of R132. -/
theorem Pic.clearPort_flagsCleared (primary secondary : Nat) (ctrl : BitVec 3) (p : Pic) :
    flagsCleared (portFlags primary secondary ctrl) p.ifr (p.clearPort primary secondary ctrl).ifr := by
  unfold Pic.clearPort portFlags
  by_cases independent : independentMode ctrl = true
  · rw [if_pos independent, if_pos ((independentMode_iff ctrl).mp independent)]
    exact p.clearFlag_flagsCleared primary
  · rw [if_neg independent, if_neg (mt (independentMode_iff ctrl).mpr independent)]
    exact (p.clearFlag_flagsCleared primary).trans ((p.clearFlag primary).clearFlag_flagsCleared secondary)

/-- A port access changes only the flags, and the flags by what they were. -/
theorem Pic.clearPort_congr (primary secondary : Nat) (ctrl : BitVec 3) {p q : Pic} (flags : q.ifr = p.ifr) :
    q.clearPort primary secondary ctrl = { q with ifr := (p.clearPort primary secondary ctrl).ifr } := by
  unfold Pic.clearPort
  split <;> simp only [Pic.clearFlag, flags]

theorem Pic.rdOrb_eq (p : Pic) : p.rdOrb = (p.portB, { p with ifr := p.clearB.ifr }) :=
  congrArg (Prod.mk p.portB) (Pic.clearPort_congr _ _ _ rfl)

theorem Pic.rdOra_eq (p : Pic) : p.rdOra = (p.portA, { p with ifr := p.clearA.ifr }) :=
  congrArg (Prod.mk p.portA) (Pic.clearPort_congr _ _ _ rfl)

theorem Pic.wrOrb_eq (p : Pic) (v : Byte) : p.wrOrb v = { p with orb := v, ifr := p.clearB.ifr } :=
  Pic.clearPort_congr flagCb1 flagCb2 p.cb2Ctrl (p := p) (q := { p with orb := v }) rfl

theorem Pic.wrOra_eq (p : Pic) (v : Byte) : p.wrOra v = { p with ora := v, ifr := p.clearA.ifr } :=
  Pic.clearPort_congr flagCa1 flagCa2 p.ca2Ctrl (p := p) (q := { p with ora := v }) rfl

theorem Pic.clearA_flagsCleared (p : Pic) : flagsCleared (portFlags 1 0 (p.pcr.extractLsb' 1 3)) p.ifr p.clearA.ifr := by
  rw [Pic.clearA_eq_clearPort]
  exact p.clearPort_flagsCleared flagCa1 flagCa2 p.ca2Ctrl

theorem Pic.clearB_flagsCleared (p : Pic) : flagsCleared (portFlags 4 3 (p.pcr.extractLsb' 5 3)) p.ifr p.clearB.ifr := by
  rw [Pic.clearB_eq_clearPort]
  exact p.clearPort_flagsCleared flagCb1 flagCb2 p.cb2Ctrl

/-! ### The bytes that are read and written, bit by bit and as numbers -/

/-- Each bit comes from `out` where the direction is output and from `pins` where it is input (R131). -/
theorem portComposition_bit (out dir pins : Byte) {b : Nat} (hb : b < 8) :
    ((out &&& dir) ||| (pins &&& ~~~dir)).getLsbD b = if dir.getLsbD b then out.getLsbD b else pins.getLsbD b := by
  rw [BitVec.getLsbD_or, BitVec.getLsbD_and, BitVec.getLsbD_and, BitVec.getLsbD_not, decide_eq_true hb]
  cases dir.getLsbD b <;> simp

theorem Pic.portA_bit (p : Pic) {b : Nat} (hb : b < 8) : p.portA.getLsbD b =
    if p.ddra.getLsbD b then p.ora.getLsbD b else if p.acr.getLsbD 0 then p.ila.getLsbD b else p.ina.getLsbD b := by
  rw [Pic.portA, portComposition_bit _ _ _ hb, apply_ite (BitVec.getLsbD · b)]

theorem Pic.portB_bit (p : Pic) {b : Nat} (hb : b < 8) : p.portB.getLsbD b =
    if p.ddrb.getLsbD b then p.orb.getLsbD b else if p.acr.getLsbD 1 then p.ilb.getLsbD b else p.inb.getLsbD b := by
  rw [Pic.portB, portComposition_bit _ _ _ hb, apply_ite (BitVec.getLsbD · b)]

theorem lowByte_eq (w : Word16) : lowByte w = BitVec.ofNat 8 (w.toNat % 256) := by
  apply BitVec.eq_of_toNat_eq
  rw [lowByte, BitVec.extractLsb'_toNat, BitVec.toNat_ofNat, Nat.shiftRight_zero, Nat.mod_mod]

theorem highByte_eq (w : Word16) : highByte w = BitVec.ofNat 8 (w.toNat / 256) := by
  apply BitVec.eq_of_toNat_eq
  rw [highByte, BitVec.extractLsb'_toNat, BitVec.toNat_ofNat, Nat.shiftRight_eq_div_pow]

/-- The enable register as it is read: bit 7 is 1 (R147). -/
theorem one_append_flags (e : Flags) : (1#1 ++ e : Byte) = BitVec.ofNat 8 (128 + e.toNat) := by
  have := e.isLt
  apply BitVec.eq_of_toNat_eq
  rw [BitVec.toNat_append, BitVec.toNat_ofNat, ← Nat.shiftLeft_add_eq_or_of_lt e.isLt, Nat.shiftLeft_eq,
    BitVec.toNat_ofNat]
  omega

/-- The interrupt output is active exactly when some flag is both set and enabled (R190). -/
theorem Pic.irq_iff (p : Pic) :
    p.irq = true ↔ ∃ k, k < 7 ∧ p.ifr.getLsbD k = true ∧ p.ier.getLsbD k = true := by
  rw [Pic.irq, bne_iff_ne]
  constructor
  · intro active
    by_contra noFlag
    refine active (BitVec.eq_of_getLsbD_eq fun k hk => ?_)
    rw [BitVec.getLsbD_and, BitVec.getLsbD_zero, Bool.and_eq_false_iff, ← Bool.not_eq_true, ← Bool.not_eq_true,
      ← not_and_or]
    exact fun both => noFlag ⟨k, hk, both⟩
  · rintro ⟨k, -, set, enabled⟩ zero
    have bit := congrArg (BitVec.getLsbD · k) zero
    simp [set, enabled] at bit

/-- A write of the enable register, bit by bit (R163). -/
theorem Pic.wrIer_bit (p : Pic) (v : Byte) {k : Nat} (hk : k < 7) :
    (p.wrIer v).ier.getLsbD k = if v.getLsbD k then v.getLsbD 7 else p.ier.getLsbD k := by
  unfold Pic.wrIer
  cases v.getLsbD 7 <;> cases set : v.getLsbD k <;> simp [hk, set]

/-- A write of the flag register, bit by bit (R162). -/
theorem Pic.wrIfr_bit (p : Pic) (v : Byte) {k : Nat} (hk : k < 7) :
    (p.wrIfr v).ifr.getLsbD k = (p.ifr.getLsbD k && !v.getLsbD k) := by
  simp [Pic.wrIfr, hk]

/-- WR_T1CH in one equation: the timer output goes low where `acr[7]` lets it drive the pin (R154). -/
theorem Pic.wrT1ch_eq (p : Pic) (v : Byte) :
    p.wrT1ch v = { p with
      t1l := withHigh p.t1l v, t1c := withHigh p.t1l v, t1Run := true, ifr := (p.clearFlag flagT1).ifr
      pb7Out := p.pb7Out && !p.acr.getLsbD 7 } := by
  have output : (if p.acr.getLsbD 7 then false else p.pb7Out) = (p.pb7Out && !p.acr.getLsbD 7) := by
    cases p.acr.getLsbD 7 <;> simp
  rw [← output]
  rfl

/-! ### The mechanics port (R290, R291) -/

theorem portPhase_toNat (cfg : Config) (v : Byte) : (portPhase cfg v).toNat = v.toNat / 2 ^ cfg.mStep % 4 := by
  rw [portPhase, BitVec.extractLsb'_toNat, Nat.shiftRight_eq_div_pow]

/-- The stepper's phase difference as a number (R291). -/
theorem phase_sub_eq_iff (a b k : BitVec 2) : a - b = k ↔ (a.toNat + 4 - b.toNat) % 4 = k.toNat := by
  have := a.isLt
  have := b.isLt
  rw [← BitVec.toNat_inj, BitVec.toNat_sub]
  omega

/-- MECH_WRITE is what the mechanics do when they see a port value. -/
theorem Drive.mechWrite_sees (cfg : Config) (v : Byte) (x : Drive) : SeesPortValue cfg v x (x.mechWrite cfg v) where
  phase := portPhase_toNat cfg v
  motor := rfl
  led := rfl
  forward delta := if_pos ((phase_sub_eq_iff (portPhase cfg v) x.phase 1#2).mpr delta)
  backward delta := by
    have back := (phase_sub_eq_iff (portPhase cfg v) x.phase 3#2).mpr delta
    simp [Drive.mechWrite, Drive.step, back]
  still delta := by
    have noStep (k : BitVec 2) (odd : k.toNat % 2 = 1) : portPhase cfg v - x.phase ≠ k := by
      rw [ne_eq, phase_sub_eq_iff]
      simp only [Drive.mechWrite, Drive.step] at delta
      omega
    simp only [Drive.mechWrite, Drive.step, if_neg (noStep 1#2 rfl), if_neg (noStep 3#2 rfl)]
  others := rfl

/-! ### Register reads -/

/-- Settles O7: the port bit by bit, then ClearB. -/
theorem rdOrbReturnsPortBAndClearsItsFlags : Obligations.RdOrbReturnsPortBAndClearsItsFlags := by
  unfold Obligations.RdOrbReturnsPortBAndClearsItsFlags
  intro s c p chip
  exact ⟨accessRequest_read_opsel 0 c [], p.portB, p.clearB.ifr, readChip_eq chip p.rdOrb_eq, fun _ => p.portB_bit,
    p.clearB_flagsCleared⟩

/-- Settles O8: both reads give the port bit by bit; only RD_ORA is followed by ClearA. -/
theorem rdOraAndRdOranhReturnPortA : Obligations.RdOraAndRdOranhReturnPortA := by
  unfold Obligations.RdOraAndRdOranhReturnPortA
  intro s c p chip
  exact ⟨accessRequest_read_opsel 1 c [], accessRequest_read_opsel 15 c [], p.portA, p.clearA.ifr,
    readChip_eq chip p.rdOra_eq, readChip_eq_of_unchanged chip rfl, fun _ => p.portA_bit, p.clearA_flagsCleared⟩

/-- Settles O9: each is a read that keeps the chip; the timer bytes and the enable register are put in numbers. -/
theorem plainRegisterReadsReturnTheirByte : Obligations.PlainRegisterReadsReturnTheirByte := by
  unfold Obligations.PlainRegisterReadsReturnTheirByte
  intro s c p chip
  have opsel (index : BitVec 4) := accessRequest_read_opsel index c []
  have unchanged {f : Pic → Byte × Pic} {v : Byte} (answer : f p = (v, p)) :
      readChip c f s = .next (s.returning (.byte v)) := readChip_eq_of_unchanged chip answer
  simp only [← highByte_eq, ← lowByte_eq, ← one_append_flags]
  exact ⟨⟨opsel 2, unchanged rfl⟩, ⟨opsel 3, unchanged rfl⟩, ⟨opsel 5, unchanged rfl⟩, ⟨opsel 6, unchanged rfl⟩,
    ⟨opsel 7, unchanged rfl⟩, ⟨opsel 9, unchanged rfl⟩, ⟨opsel 11, unchanged rfl⟩, ⟨opsel 12, unchanged rfl⟩,
    opsel 14, unchanged rfl⟩

/-- Settles O10: each read clears one flag of the chip. -/
theorem counterAndShiftReadsClearTheirFlag : Obligations.CounterAndShiftReadsClearTheirFlag := by
  unfold Obligations.CounterAndShiftReadsClearTheirFlag
  intro s c p chip
  simp only [← lowByte_eq]
  exact ⟨accessRequest_read_opsel 4 c [], accessRequest_read_opsel 8 c [], accessRequest_read_opsel 10 c [],
    (p.clearFlag flagT1).ifr, (p.clearFlag flagT2).ifr, (p.clearFlag flagSr).ifr,
    readChip_eq chip rfl, p.clearFlag_flagsCleared flagT1,
    readChip_eq chip rfl, p.clearFlag_flagsCleared flagT2,
    readChip_eq chip rfl, p.clearFlag_flagsCleared flagSr⟩

/-- Settles O11: the byte is the interrupt output put above the seven flags. -/
theorem rdIfrReturnsTheFlagsAndTheAnyBit : Obligations.RdIfrReturnsTheFlagsAndTheAnyBit := by
  unfold Obligations.RdIfrReturnsTheFlagsAndTheAnyBit
  intro s c p chip
  refine ⟨accessRequest_read_opsel 13 c [], BitVec.ofBool p.irq ++ p.ifr, readChip_eq_of_unchanged chip rfl,
    fun k hk => ?_, ?_, p.irq_iff⟩
  · rw [BitVec.getLsbD_append, if_pos hk]
  · rw [BitVec.getLsbD_append, if_neg (lt_irrefl 7)]
    simp

/-! ### Register writes -/

/-- Settles O13: the chip takes the byte, and on PIC2 of a drive MECH_WRITE follows with the output bits of port B. -/
theorem portBWritesStoreTheByteAndPic2DrivesTheMechanics :
    Obligations.PortBWritesStoreTheByteAndPic2DrivesTheMechanics := by
  unfold Obligations.PortBWritesStoreTheByteAndPic2DrivesTheMechanics
  intro s c p v chip
  refine ⟨accessRequest_write_opsel 0 c [v.toNat], accessRequest_write_opsel 2 c [v.toNat], p.clearB.ifr,
    p.clearB_flagsCleared, fun notSecond => ?_, ?_⟩
  · exact ⟨writePortB_eq_of_not_second chip notSecond (p.wrOrb_eq v), writePortB_eq_of_not_second chip notSecond rfl⟩
  · rintro d x rfl hx
    obtain rfl : x.pic2 = p := by simpa [State.chipAt, hx] using chip
    exact ⟨_, _, Drive.mechWrite_sees .., writePortB_pic2_eq hx (x.pic2.wrOrb_eq v),
      Drive.mechWrite_sees .., writePortB_pic2_eq hx rfl⟩

/-- Settles O12: only WR_ORA is followed by ClearA. -/
theorem portAWritesStoreTheByte : Obligations.PortAWritesStoreTheByte := by
  unfold Obligations.PortAWritesStoreTheByte
  intro s c p v chip
  have opsel (index : BitVec 4) := accessRequest_write_opsel index c [v.toNat]
  exact ⟨opsel 1, opsel 15, opsel 3, writeChip_eq chip rfl, writeChip_eq chip rfl, p.clearA.ifr,
    writeChip_eq chip (p.wrOra_eq v), p.clearA_flagsCleared⟩

/-- Settles O14: the latch keeps its high byte and takes the low one. -/
theorem lowByteWritesReachTheLatchOnly : Obligations.LowByteWritesReachTheLatchOnly := by
  unfold Obligations.LowByteWritesReachTheLatchOnly
  intro s c p v chip
  have opsel (index : BitVec 4) := accessRequest_write_opsel index c [v.toNat]
  exact ⟨opsel 4, opsel 6, opsel 8, withLow p.t1l v, withLow p.t2l v, withLow_toNat _ _, withLow_toNat _ _,
    writeChip_eq chip rfl, writeChip_eq chip rfl, writeChip_eq chip rfl⟩

/-- Settles O15: the latch keeps its low byte and takes the high one; the counter is loaded from the whole latch. -/
theorem highByteWritesLoadTheTimer : Obligations.HighByteWritesLoadTheTimer := by
  unfold Obligations.HighByteWritesLoadTheTimer
  intro s c p v chip
  have opsel (index : BitVec 4) := accessRequest_write_opsel index c [v.toNat]
  exact ⟨opsel 5, opsel 7, opsel 9, withHigh p.t1l v, withHigh p.t2l v, (p.clearFlag flagT1).ifr,
    (p.clearFlag flagT2).ifr, withHigh_toNat _ _, withHigh_toNat _ _, p.clearFlag_flagsCleared flagT1,
    p.clearFlag_flagsCleared flagT2, writeChip_eq chip (p.wrT1ch_eq v), writeChip_eq chip rfl, writeChip_eq chip rfl⟩

/-- Settles O16: three stores, of which WR_SR also clears its flag. -/
theorem shiftAndControlWritesStoreTheByte : Obligations.ShiftAndControlWritesStoreTheByte := by
  unfold Obligations.ShiftAndControlWritesStoreTheByte
  intro s c p v chip
  have opsel (index : BitVec 4) := accessRequest_write_opsel index c [v.toNat]
  exact ⟨opsel 10, opsel 11, opsel 12, writeChip_eq chip rfl, writeChip_eq chip rfl, (p.clearFlag flagSr).ifr,
    writeChip_eq chip rfl, p.clearFlag_flagsCleared flagSr⟩

/-- Settles O17, from the two registers bit by bit. -/
theorem wrIfrClearsFlagsAndWrIerSetsOrClearsEnables : Obligations.WrIfrClearsFlagsAndWrIerSetsOrClearsEnables := by
  unfold Obligations.WrIfrClearsFlagsAndWrIerSetsOrClearsEnables
  intro s c p v chip
  have opsel (index : BitVec 4) := accessRequest_write_opsel index c [v.toNat]
  exact ⟨opsel 13, opsel 14, (p.wrIfr v).ifr, (p.wrIer v).ier, writeChip_eq chip rfl, fun _ => p.wrIfr_bit v,
    writeChip_eq chip rfl, fun _ => p.wrIer_bit v⟩

end Sys2Proof.Machine

/-! PROOFS. The family of spec/41_pic_timers_lines.md: the timers, the control lines, the port inputs and the outputs
of a chip (R170 to R173, R180 to R185, R191, R304), and the reasons of a refusal (U8, U9, U11, U14). -/

namespace Sys2Proof.Machine

-- Every thread of the compiler reserves a stack of 1 GiB, and the check bounds the sum: as in Sys2Proof/Tests/Slice0.lean,
-- the proofs of this part are elaborated in order and take no thread each.
set_option Elab.async false

/-! ### Setting a flag (R30) -/

/-- Setting another flag leaves flag `k`. -/
theorem Pic.setFlag_bit_ne (p : Pic) {j k : Nat} (hk : k < 7) (ne : k ≠ j) :
    (p.setFlag j).ifr.getLsbD k = p.ifr.getLsbD k := by
  rw [Pic.setFlag_bit p j k hk, decide_eq_false ne, Bool.or_false]

/-- Flag `k` is pending once it is set. -/
theorem Pic.setFlag_bit_self (p : Pic) {k : Nat} (hk : k < 7) : (p.setFlag k).ifr.getLsbD k = true := by
  rw [Pic.setFlag_bit p k k hk, decide_eq_true rfl, Bool.or_true]

/-! ### Cycles: what every number of them keeps, and how a count goes down (R170) -/

section Cycles

variable {cfg : Config}

/-- What one cycle keeps, any number of cycles keeps. -/
theorem Pic.ticks_keeps {P : Pic → Prop} (keeps : ∀ p, P p → P (p.cycle cfg)) (n : Nat) {p : Pic} (h : P p) :
    P (p.ticks cfg n) := by
  induction n generalizing p with
  | zero => exact h
  | succ n ih => exact ih (keeps p h)

/-- A count that each cycle takes down by one is `c` after `n` cycles from `c + n`. -/
theorem Pic.ticks_countDown {P : Nat → Pic → Prop} (down : ∀ c p, P (c + 1) p → P c (p.cycle cfg)) {c : Nat} (n : Nat)
    {p : Pic} (h : P (c + n) p) : P c (p.ticks cfg n) := by
  induction n generalizing p with
  | zero => exact h
  | succ n ih => exact ih (down _ p h)

/-- More cycles than `c` are `c` cycles, one more, and then the rest. -/
theorem Pic.ticks_past {c n : Nat} (past : c < n) (p : Pic) :
    p.ticks cfg n = ((p.ticks cfg c).cycle cfg).ticks cfg (n - c - 1) := by
  have total : n = c + (n - c - 1 + 1) := by omega
  calc p.ticks cfg n
    _ = p.ticks cfg (c + (n - c - 1 + 1)) := by rw [← total]
    _ = (p.ticks cfg c).ticks cfg (n - c - 1 + 1) := Pic.ticks_add ..

/-! ### The frame of a cycle -/

/-- `q` is `p` but for the two timers, their flags and the timer output. -/
structure OnlyTimersDiffer (p q : Pic) : Prop where
  fields : q = { p with
    t1c := q.t1c, t1Run := q.t1Run, t2c := q.t2c, t2Run := q.t2Run, ifr := q.ifr, pb7Out := q.pb7Out }
  flags : ∀ k, k < 5 → q.ifr.getLsbD k = p.ifr.getLsbD k

theorem OnlyTimersDiffer.refl (p : Pic) : OnlyTimersDiffer p p := ⟨rfl, fun _ _ => rfl⟩

theorem OnlyTimersDiffer.trans {p q r : Pic} (first : OnlyTimersDiffer p q) (second : OnlyTimersDiffer q r) :
    OnlyTimersDiffer p r where
  fields := by rw [second.fields, first.fields]
  flags k hk := by rw [second.flags k hk, first.flags k hk]

theorem OnlyTimersDiffer.t1l_eq {p q : Pic} (h : OnlyTimersDiffer p q) : q.t1l = p.t1l := by rw [h.fields]

theorem OnlyTimersDiffer.acr_eq {p q : Pic} (h : OnlyTimersDiffer p q) : q.acr = p.acr := by rw [h.fields]

/-! ### The cases of a timer's cycle (R171, R173) -/

theorem Pic.t1Cycle_of_stopped {p : Pic} (stopped : p.t1Run = false) : p.t1Cycle cfg = p := by
  simp [Pic.t1Cycle, stopped]

theorem Pic.t1Cycle_of_pos {p : Pic} (run : p.t1Run = true) (pos : p.t1c ≠ 0#16) :
    p.t1Cycle cfg = { p with t1c := p.t1c - 1#16 } := by
  simp [Pic.t1Cycle, run, pos]

theorem Pic.t1Cycle_of_zero {p : Pic} (run : p.t1Run = true) (zero : p.t1c = 0#16) :
    p.t1Cycle cfg = p.t1Underflow cfg := by
  simp [Pic.t1Cycle, run, zero]

theorem Pic.t2Cycle_of_stopped {p : Pic} (stopped : p.t2Run = false) : p.t2Cycle = p := by
  simp [Pic.t2Cycle, stopped]

theorem Pic.t2Cycle_of_pos {p : Pic} (run : p.t2Run = true) (pos : p.t2c ≠ 0#16) :
    p.t2Cycle = { p with t2c := p.t2c - 1#16 } := by
  simp [Pic.t2Cycle, run, pos]

theorem Pic.t2Cycle_of_zero {p : Pic} (run : p.t2Run = true) (zero : p.t2c = 0#16) :
    p.t2Cycle = { p.setFlag flagT2 with t2Run := false, t2c := 0xFFFF#16 } := by
  simp [Pic.t2Cycle, run, zero]

/-- Timer 1's cycle leaves the chip, counts down, or is the underflow. -/
theorem Pic.t1Cycle_cases (cfg : Config) (p : Pic) :
    p.t1Cycle cfg = p ∨ p.t1Cycle cfg = { p with t1c := p.t1c - 1#16 } ∨ p.t1Cycle cfg = p.t1Underflow cfg := by
  by_cases run : p.t1Run = true
  · by_cases zero : p.t1c = 0#16
    · exact .inr (.inr (t1Cycle_of_zero run zero))
    · exact .inr (.inl (t1Cycle_of_pos run zero))
  · exact .inl (t1Cycle_of_stopped (Bool.eq_false_of_not_eq_true run))

/-- Timer 2's cycle leaves the chip, counts down, or stops the timer with its flag. -/
theorem Pic.t2Cycle_cases (p : Pic) :
    p.t2Cycle = p ∨ p.t2Cycle = { p with t2c := p.t2c - 1#16 } ∨
      p.t2Cycle = { p.setFlag flagT2 with t2Run := false, t2c := 0xFFFF#16 } := by
  by_cases run : p.t2Run = true
  · by_cases zero : p.t2c = 0#16
    · exact .inr (.inr (t2Cycle_of_zero run zero))
    · exact .inr (.inl (t2Cycle_of_pos run zero))
  · exact .inl (t2Cycle_of_stopped (Bool.eq_false_of_not_eq_true run))

/-! ### Timer 1's underflow (R172) -/

/-- An underflow of the one-shot timer. -/
theorem Pic.t1Underflow_oneShot {p : Pic} (mode : p.acr.getLsbD 6 = false) :
    p.t1Underflow cfg = { p.setFlag flagT1 with
      t1Run := false, t1c := 0xFFFF#16, pb7Out := p.pb7Out || p.acr.getLsbD 7 } := by
  cases out : p.acr.getLsbD 7 <;>
    simp only [Pic.t1Underflow, mode, out, Bool.false_eq_true, if_true, if_false, Bool.or_false, Bool.or_true]

/-- An underflow of the continuous timer. -/
theorem Pic.t1Underflow_continuous {p : Pic} (mode : p.acr.getLsbD 6 = true) :
    p.t1Underflow cfg = { p.setFlag flagT1 with
      t1c := p.t1l - 1#16 + BitVec.ofNat 16 cfg.tReloadAdj, pb7Out := p.pb7Out ^^ p.acr.getLsbD 7 } := by
  cases out : p.acr.getLsbD 7 <;>
    simp only [Pic.t1Underflow, mode, out, Bool.false_eq_true, if_true, if_false, Bool.xor_false, Bool.xor_true]

/-- The flags after an underflow, in either mode. -/
theorem Pic.t1Underflow_ifr (cfg : Config) (p : Pic) : (p.t1Underflow cfg).ifr = (p.setFlag flagT1).ifr := by
  cases mode : p.acr.getLsbD 6 with
  | false => rw [t1Underflow_oneShot mode]
  | true => rw [t1Underflow_continuous mode]

/-- The count after a reload. -/
theorem reload_toNat (latch : Word16) (adj : Nat) :
    (latch - 1#16 + BitVec.ofNat 16 adj).toNat = (latch.toNat + 65535 + adj) % 65536 := by
  rw [BitVec.toNat_add, BitVec.toNat_sub, BitVec.toNat_ofNat, BitVec.toNat_ofNat]
  omega

theorem OnlyTimersDiffer.t1Underflow (cfg : Config) (p : Pic) : OnlyTimersDiffer p (p.t1Underflow cfg) where
  fields := by
    cases mode : p.acr.getLsbD 6 with
    | false => rw [Pic.t1Underflow_oneShot mode]; rfl
    | true => rw [Pic.t1Underflow_continuous mode]; rfl
  flags k hk := by
    rw [Pic.t1Underflow_ifr]
    exact p.setFlag_bit_ne (by omega) (show k ≠ 6 by omega)

theorem OnlyTimersDiffer.t1Cycle (cfg : Config) (p : Pic) : OnlyTimersDiffer p (p.t1Cycle cfg) := by
  obtain h | h | h := p.t1Cycle_cases cfg <;> rw [h]
  · exact .refl p
  · exact ⟨rfl, fun _ _ => rfl⟩
  · exact .t1Underflow cfg p

theorem OnlyTimersDiffer.t2Cycle (p : Pic) : OnlyTimersDiffer p p.t2Cycle := by
  obtain h | h | h := p.t2Cycle_cases <;> rw [h]
  · exact .refl p
  · exact ⟨rfl, fun _ _ => rfl⟩
  · exact ⟨rfl, fun k hk => p.setFlag_bit_ne (by omega) (show k ≠ 5 by omega)⟩

/-- A tick leaves everything but the timers, their flags and the timer output. -/
theorem OnlyTimersDiffer.ticks (cfg : Config) (n : Nat) (p : Pic) : OnlyTimersDiffer p (p.ticks cfg n) :=
  Pic.ticks_keeps (fun q h => h.trans ((t1Cycle cfg q).trans (t2Cycle _))) n (refl p)

/-! ### Timer 1 over cycles (R171, R172) -/

/-- Timer 1 of `p`: its count, whether it runs, its output and its flag. -/
structure Timer1Is (count : Nat) (run out flag : Bool) (p : Pic) : Prop where
  count : p.t1c.toNat = count
  run : p.t1Run = run
  out : p.pb7Out = out
  flag : p.ifr.getLsbD flagT1 = flag

theorem Timer1Is.self (p : Pic) : Timer1Is p.t1c.toNat p.t1Run p.pb7Out (p.ifr.getLsbD flagT1) p := ⟨rfl, rfl, rfl, rfl⟩

section Timer1

variable {c : Nat} {run out flag : Bool} {p : Pic}

/-- Timer 2's cycle leaves timer 1. -/
theorem Timer1Is.t2Cycle (h : Timer1Is c run out flag p) : Timer1Is c run out flag p.t2Cycle := by
  obtain cycle | cycle | cycle := p.t2Cycle_cases <;> rw [cycle]
  · exact h
  · exact ⟨h.count, h.run, h.out, h.flag⟩
  · exact ⟨h.count, h.run, h.out, (p.setFlag_bit_ne (by decide) (by decide)).trans h.flag⟩

theorem Timer1Is.t1c_eq_zero (h : Timer1Is 0 run out flag p) : p.t1c = 0#16 := BitVec.eq_of_toNat_eq h.count

theorem Timer1Is.cycle_of_stopped (h : Timer1Is c false out flag p) : Timer1Is c false out flag (p.cycle cfg) := by
  rw [Pic.cycle, Pic.t1Cycle_of_stopped h.run]
  exact h.t2Cycle

theorem Timer1Is.cycle_countDown (h : Timer1Is (c + 1) true out flag p) : Timer1Is c true out flag (p.cycle cfg) := by
  have count := h.count
  have pos : p.t1c ≠ 0#16 := by bv_omega
  rw [Pic.cycle, Pic.t1Cycle_of_pos h.run pos]
  refine Timer1Is.t2Cycle ⟨?_, h.run, h.out, h.flag⟩
  show (p.t1c - 1#16).toNat = c
  bv_omega

/-- The cycle in which the one-shot timer underflows. -/
theorem Timer1Is.cycle_oneShot (mode : p.acr.getLsbD 6 = false) (h : Timer1Is 0 true out flag p) :
    Timer1Is 65535 false (out || p.acr.getLsbD 7) true (p.cycle cfg) := by
  rw [Pic.cycle, Pic.t1Cycle_of_zero h.run h.t1c_eq_zero, Pic.t1Underflow_oneShot mode, h.out]
  exact Timer1Is.t2Cycle ⟨rfl, rfl, rfl, p.setFlag_bit_self (by decide)⟩

/-- The cycle in which the continuous timer underflows. -/
theorem Timer1Is.cycle_continuous (mode : p.acr.getLsbD 6 = true) (h : Timer1Is 0 true out flag p) :
    Timer1Is ((p.t1l.toNat + 65535 + cfg.tReloadAdj) % 65536) true (out ^^ p.acr.getLsbD 7) true (p.cycle cfg) := by
  rw [Pic.cycle, Pic.t1Cycle_of_zero h.run h.t1c_eq_zero, Pic.t1Underflow_continuous mode, h.out]
  exact Timer1Is.t2Cycle ⟨reload_toNat _ _, h.run, rfl, p.setFlag_bit_self (by decide)⟩

/-- An underflow sets the flag in either mode. -/
theorem Timer1Is.cycle_flag (h : Timer1Is 0 true out flag p) : (p.cycle cfg).ifr.getLsbD flagT1 = true := by
  cases mode : p.acr.getLsbD 6 with
  | false => exact (h.cycle_oneShot mode).flag
  | true => exact (h.cycle_continuous mode).flag

theorem Timer1Is.ticks_of_stopped (h : Timer1Is c false out flag p) (n : Nat) :
    Timer1Is c false out flag (p.ticks cfg n) :=
  Pic.ticks_keeps (P := Timer1Is c false out flag) (fun _ => Timer1Is.cycle_of_stopped) n h

theorem Timer1Is.ticks_countDown {n : Nat} (h : Timer1Is (c + n) true out flag p) :
    Timer1Is c true out flag (p.ticks cfg n) :=
  Pic.ticks_countDown (P := fun c => Timer1Is c true out flag) (fun _ _ => Timer1Is.cycle_countDown) n h

/-- A running timer reaches 0 after as many cycles as it counts. -/
theorem Timer1Is.ticks_to_zero (h : Timer1Is c true out flag p) : Timer1Is 0 true out flag (p.ticks cfg c) :=
  Timer1Is.ticks_countDown (by rwa [Nat.zero_add])

end Timer1

/-- A pending flag of timer 1 stays over one cycle, whatever the timer does. -/
theorem Pic.cycle_keeps_t1Flag (p : Pic) (h : p.ifr.getLsbD flagT1 = true) :
    (p.cycle cfg).ifr.getLsbD flagT1 = true := by
  have pending : (p.t1Cycle cfg).ifr.getLsbD flagT1 = true := by
    obtain cycle | cycle | cycle := p.t1Cycle_cases cfg <;> rw [cycle]
    · exact h
    · exact h
    · rw [t1Underflow_ifr]; exact p.setFlag_bit_self (by decide)
  exact ((Timer1Is.self (p.t1Cycle cfg)).t2Cycle.flag).trans pending

/-! ### Timer 2 over cycles (R173) -/

/-- Timer 2 of `p`: its count, whether it runs and its flag. -/
structure Timer2Is (count : Nat) (run flag : Bool) (p : Pic) : Prop where
  count : p.t2c.toNat = count
  run : p.t2Run = run
  flag : p.ifr.getLsbD flagT2 = flag

theorem Timer2Is.self (p : Pic) : Timer2Is p.t2c.toNat p.t2Run (p.ifr.getLsbD flagT2) p := ⟨rfl, rfl, rfl⟩

section Timer2

variable {c : Nat} {run flag : Bool} {p : Pic}

/-- Timer 1's underflow leaves timer 2. -/
theorem Timer2Is.t1Underflow (h : Timer2Is c run flag p) : Timer2Is c run flag (p.t1Underflow cfg) := by
  have other : (p.setFlag flagT1).ifr.getLsbD flagT2 = flag := (p.setFlag_bit_ne (by decide) (by decide)).trans h.flag
  cases mode : p.acr.getLsbD 6 with
  | false => rw [Pic.t1Underflow_oneShot mode]; exact ⟨h.count, h.run, other⟩
  | true => rw [Pic.t1Underflow_continuous mode]; exact ⟨h.count, h.run, other⟩

/-- Timer 1's cycle leaves timer 2. -/
theorem Timer2Is.t1Cycle (h : Timer2Is c run flag p) : Timer2Is c run flag (p.t1Cycle cfg) := by
  obtain cycle | cycle | cycle := p.t1Cycle_cases cfg <;> rw [cycle]
  · exact h
  · exact ⟨h.count, h.run, h.flag⟩
  · exact h.t1Underflow

theorem Timer2Is.cycle_of_stopped (h : Timer2Is c false flag p) : Timer2Is c false flag (p.cycle cfg) := by
  have first := h.t1Cycle (cfg := cfg)
  rw [Pic.cycle, Pic.t2Cycle_of_stopped first.run]
  exact first

theorem Timer2Is.cycle_countDown (h : Timer2Is (c + 1) true flag p) : Timer2Is c true flag (p.cycle cfg) := by
  have first := h.t1Cycle (cfg := cfg)
  have count := first.count
  have pos : (p.t1Cycle cfg).t2c ≠ 0#16 := by bv_omega
  rw [Pic.cycle, Pic.t2Cycle_of_pos first.run pos]
  refine ⟨?_, first.run, first.flag⟩
  show ((p.t1Cycle cfg).t2c - 1#16).toNat = c
  bv_omega

/-- The cycle in which timer 2 underflows, whatever the auxiliary control register holds. -/
theorem Timer2Is.cycle_underflow (h : Timer2Is 0 true flag p) : Timer2Is 65535 false true (p.cycle cfg) := by
  have first := h.t1Cycle (cfg := cfg)
  rw [Pic.cycle, Pic.t2Cycle_of_zero first.run (BitVec.eq_of_toNat_eq first.count)]
  exact ⟨rfl, rfl, (p.t1Cycle cfg).setFlag_bit_self (by decide)⟩

theorem Timer2Is.ticks_of_stopped (h : Timer2Is c false flag p) (n : Nat) : Timer2Is c false flag (p.ticks cfg n) :=
  Pic.ticks_keeps (P := Timer2Is c false flag) (fun _ => Timer2Is.cycle_of_stopped) n h

theorem Timer2Is.ticks_countDown {n : Nat} (h : Timer2Is (c + n) true flag p) : Timer2Is c true flag (p.ticks cfg n) :=
  Pic.ticks_countDown (P := fun c => Timer2Is c true flag) (fun _ _ => Timer2Is.cycle_countDown) n h

/-- A running timer reaches 0 after as many cycles as it counts. -/
theorem Timer2Is.ticks_to_zero (h : Timer2Is c true flag p) : Timer2Is 0 true flag (p.ticks cfg c) :=
  Timer2Is.ticks_countDown (by rwa [Nat.zero_add])

end Timer2

end Cycles

/-! ### The tick as an operation -/

/-- TICK on a present chip. -/
theorem exec_tick_of_some {s : State} {c : ChipRef} {p : Pic} (h : s.chipAt c = some p) (n : Nat) :
    exec (.tick c n) s = .next ((s.setChip c (p.ticks s.cfg n)).returning .none) := writeChip_of_some h _

/-- Of two replacements of one chip, with a return between them, the second one counts. -/
theorem State.setChip_returning_setChip (s : State) (c : ChipRef) (p q : Pic) (r r' : Result) :
    (((s.setChip c p).returning r).setChip c q).returning r' = (s.setChip c q).returning r' := by
  have twice : (s.setChip c p).setChip c q = s.setChip c q := by
    cases c with
    | standalone => rfl
    | pic1 d => exact State.updateDrive_updateDrive ..
    | pic2 d => exact State.updateDrive_updateDrive ..
  calc (((s.setChip c p).returning r).setChip c q).returning r'
    _ = ((s.setChip c p).setChip c q).returning r' := by cases c <;> rfl
    _ = (s.setChip c q).returning r' := by rw [twice]

/-- What an operation returned is no part of a chip. -/
@[simp] theorem State.chipAt_returning (s : State) (c : ChipRef) (r : Result) :
    (s.returning r).chipAt c = s.chipAt c := by
  cases c <;> rfl

/-- The selector of an operation on pins that takes no level (R102). -/
theorem pinRequest_plain_opsel (kind : BitVec 4) (c : ChipRef) (args : List Nat) :
    (pinRequest kind false c args).opsel = 0b01#2 ++ BitVec.ofBool c.second ++ (kind ++ 0#1) :=
  BitVec.append_assoc

/-- Settles O20: the chip's cycles are an iteration, and TICK replaces the chip by the iteration's value. -/
theorem tickRepeatsTheSingleCycle : Obligations.TickRepeatsTheSingleCycle := by
  unfold Obligations.TickRepeatsTheSingleCycle
  intro s c p chip
  refine ⟨fun n => ⟨pinRequest_plain_opsel 0b0110 c [n], ?_⟩, ?_, fun a b => ?_⟩
  · rw [exec_tick_of_some chip, Pic.ticks_eq_iterate]
  · rw [exec_tick_of_some chip, Pic.ticks, State.setChip_eq_self chip]
  · refine ⟨_, exec_tick_of_some chip a, ?_⟩
    have after : ((s.setChip c (p.ticks s.cfg a)).returning .none).chipAt c = some (p.ticks s.cfg a) := by
      rw [State.chipAt_returning, State.chipAt_setChip s c p _ chip]
    rw [exec_tick_of_some after, exec_tick_of_some chip, State.setChip_returning_setChip, State.returning_cfg,
      State.setChip_cfg, Pic.ticks_add]

/-- Settles O21: a stopped timer stays, a running one counts down to 0, and the cycle after that sets the flag, which no
cycle clears. -/
theorem timer1UnderflowsExactlyPastItsCount : Obligations.Timer1UnderflowsExactlyPastItsCount := by
  unfold Obligations.Timer1UnderflowsExactlyPastItsCount
  intro s c p n chip
  have start := Timer1Is.self p
  refine ⟨_, exec_tick_of_some chip n, (OnlyTimersDiffer.ticks s.cfg n p).t1l_eq, fun stopped => ?_,
    fun run => ⟨fun within => ?_, fun past => ?_⟩⟩
  · rw [stopped] at start
    have last := start.ticks_of_stopped (cfg := s.cfg) n
    exact ⟨BitVec.eq_of_toNat_eq last.count, last.run, last.out, last.flag⟩
  · rw [run, ← Nat.sub_add_cancel within] at start
    have last := start.ticks_countDown (cfg := s.cfg)
    exact ⟨last.count, last.run, last.out, last.flag⟩
  · rw [run] at start
    rw [Pic.ticks_past past]
    exact Pic.ticks_keeps Pic.cycle_keeps_t1Flag _ start.ticks_to_zero.cycle_flag

/-- Settles O22: the timer counts down to 0 and underflows; the one-shot timer then stays, the continuous one counts
down from its reload. -/
theorem timer1UnderflowStopsOrReloadsWithOvershoot : Obligations.Timer1UnderflowStopsOrReloadsWithOvershoot := by
  unfold Obligations.Timer1UnderflowStopsOrReloadsWithOvershoot
  intro s c p chip run
  have start := Timer1Is.self p
  rw [run] at start
  have zero := start.ticks_to_zero (cfg := s.cfg)
  have kept := OnlyTimersDiffer.ticks s.cfg p.t1c.toNat p
  refine ⟨fun oneShot n past => ?_, fun continuous => ⟨fun atZero => ?_, fun adj n past within => ?_⟩⟩
  · refine ⟨_, exec_tick_of_some chip n, ?_⟩
    rw [Pic.ticks_past past]
    have stopped := zero.cycle_oneShot (cfg := s.cfg) (by rwa [kept.acr_eq])
    rw [kept.acr_eq] at stopped
    have last := stopped.ticks_of_stopped (cfg := s.cfg) (n - p.t1c.toNat - 1)
    exact ⟨last.flag, last.run, BitVec.eq_of_toNat_eq last.count, last.out⟩
  · have last := Timer1Is.cycle_continuous (cfg := s.cfg) continuous (by rwa [atZero] at start)
    exact ⟨_, exec_tick_of_some chip 1, last.flag, last.run,
      BitVec.eq_of_toNat_eq (last.count.trans (BitVec.toNat_ofNat _ 16).symm), last.out⟩
  · refine ⟨_, exec_tick_of_some chip n, ?_⟩
    rw [Pic.ticks_past past]
    have reload := zero.cycle_continuous (cfg := s.cfg) (by rwa [kept.acr_eq])
    have latch := p.t1l.isLt
    have overshoot : (p.t1l.toNat + 65535 + s.cfg.tReloadAdj) % 65536 =
        p.t1l.toNat - (n - p.t1c.toNat) + (n - p.t1c.toNat - 1) := by omega
    rw [kept.acr_eq, kept.t1l_eq, overshoot] at reload
    have last := reload.ticks_countDown (cfg := s.cfg)
    exact ⟨last.flag, last.run, last.count, last.out⟩

/-- Settles O23: a stopped timer stays, a running one counts down to 0, and the cycle after that stops it with its
flag. -/
theorem timer2IsOneShot : Obligations.Timer2IsOneShot := by
  unfold Obligations.Timer2IsOneShot
  intro s c p n chip
  have start := Timer2Is.self p
  have kept := OnlyTimersDiffer.ticks s.cfg n p
  refine ⟨_, exec_tick_of_some chip n, fun stopped => ?_, fun run => ⟨fun within => ?_, fun past => ?_⟩, kept.flags,
    kept.fields⟩
  · rw [stopped] at start
    have last := start.ticks_of_stopped (cfg := s.cfg) n
    exact ⟨BitVec.eq_of_toNat_eq last.count, last.run, last.flag⟩
  · rw [run, ← Nat.sub_add_cancel within] at start
    have last := start.ticks_countDown (cfg := s.cfg)
    exact ⟨last.count, last.run, last.flag⟩
  · rw [run] at start
    rw [Pic.ticks_past past]
    have zero := start.ticks_to_zero (cfg := s.cfg)
    have last := (zero.cycle_underflow (cfg := s.cfg)).ticks_of_stopped (cfg := s.cfg) (n - p.t2c.toNat - 1)
    exact ⟨BitVec.eq_of_toNat_eq last.count, last.run, last.flag⟩

/-! ### Control lines and port inputs (R180 to R185) -/

theorem activeEdge_iff (positive prev level : Bool) :
    activeEdge positive prev level = true ↔ isActiveEdge positive prev level := by
  cases positive <;> simp [activeEdge, isActiveEdge]

/-- A flag that is set on a test is set when the test's meaning holds. -/
theorem Pic.setFlag_flagSetWhen (p : Pic) (k : Nat) {b : Bool} {on : Prop} (test : b = true ↔ on) :
    flagSetWhen on k p.ifr (if b then (p.setFlag k).ifr else p.ifr) := by
  intro i hi
  cases b with
  | true => simp [Pic.setFlag_bit p k i hi, ← test, -Pic.setFlag_ifr]
  | false => simp [← test]

/-- A report on CA2 in one equation: the level is recorded; in the input modes the active edge sets the flag. -/
theorem Pic.setCa2_eq (level : Bool) (p : Pic) :
    p.setCa2 level =
      { p with
        ca2Prev := level
        ifr := if !p.pcr.getLsbD 3 && activeEdge (p.pcr.getLsbD 2) p.ca2Prev level then (p.setFlag flagCa2).ifr
          else p.ifr } := by
  unfold Pic.setCa2
  cases !p.pcr.getLsbD 3 && activeEdge (p.pcr.getLsbD 2) p.ca2Prev level <;> rfl

/-- A report on CB1 in one equation: the level is recorded; the active edge sets the flag and may fill the latch. -/
theorem Pic.setCb1_eq (level : Bool) (p : Pic) :
    p.setCb1 level =
      { p with
        cb1Prev := level
        ifr := if activeEdge (p.pcr.getLsbD 4) p.cb1Prev level then (p.setFlag flagCb1).ifr else p.ifr
        ilb := if activeEdge (p.pcr.getLsbD 4) p.cb1Prev level && p.acr.getLsbD 1 then p.inb else p.ilb } := by
  unfold Pic.setCb1
  cases activeEdge (p.pcr.getLsbD 4) p.cb1Prev level <;> rfl

/-- A report on CB2 in one equation: the level is recorded; in the input modes the active edge sets the flag. -/
theorem Pic.setCb2_eq (level : Bool) (p : Pic) :
    p.setCb2 level =
      { p with
        cb2Prev := level
        ifr := if !p.pcr.getLsbD 7 && activeEdge (p.pcr.getLsbD 6) p.cb2Prev level then (p.setFlag flagCb2).ifr
          else p.ifr } := by
  unfold Pic.setCb2
  cases !p.pcr.getLsbD 7 && activeEdge (p.pcr.getLsbD 6) p.cb2Prev level <;> rfl

/-- The edge in an input mode, as the model tests it. -/
theorem inputEdge_iff (output positive prev level : Bool) :
    (!output && activeEdge positive prev level) = true ↔ output = false ∧ isActiveEdge positive prev level := by
  rw [Bool.and_eq_true, Bool.not_eq_true', activeEdge_iff]

/-- The edge with input latching enabled, as the model tests it. -/
theorem latchEdge_iff (positive prev level latching : Bool) :
    (activeEdge positive prev level && latching) = true ↔ isActiveEdge positive prev level ∧ latching = true := by
  rw [Bool.and_eq_true, activeEdge_iff]

/-- The selector of a report on a control line (R102). -/
theorem pinRequest_level_opsel (kind : BitVec 4) (level : Bool) (c : ChipRef) (args : List Nat) :
    (pinRequest kind level c args).opsel = 0b01#2 ++ BitVec.ofBool c.second ++ kind ++ BitVec.ofBool level := rfl

/-- Settles O18: each report is one equation of the chip, whose tests are the edges of the statement. -/
theorem controlLinesFlagAndLatchOnTheirActiveEdge : Obligations.ControlLinesFlagAndLatchOnTheirActiveEdge := by
  unfold Obligations.ControlLinesFlagAndLatchOnTheirActiveEdge
  intro s c p l chip
  have opsel (kind : BitVec 4) := pinRequest_level_opsel kind l c []
  refine ⟨opsel 0, opsel 1, opsel 2, opsel 3, _, _, _, _, _, _,
    writeChip_eq chip (p.setCa1_eq l), p.setFlag_flagSetWhen flagCa1 (activeEdge_iff ..), ?_, ?_,
    writeChip_eq chip (p.setCa2_eq l), p.setFlag_flagSetWhen flagCa2 (inputEdge_iff ..),
    writeChip_eq chip (p.setCb1_eq l), p.setFlag_flagSetWhen flagCb1 (activeEdge_iff ..), ?_, ?_,
    writeChip_eq chip (p.setCb2_eq l), p.setFlag_flagSetWhen flagCb2 (inputEdge_iff ..)⟩
  · exact fun latched => if_pos ((latchEdge_iff ..).mpr latched)
  · exact fun kept => if_neg (mt (latchEdge_iff ..).mp kept)
  · exact fun latched => if_pos ((latchEdge_iff ..).mpr latched)
  · exact fun kept => if_neg (mt (latchEdge_iff ..).mp kept)

/-- Settles O19: both replace one byte of the chip. -/
theorem portInputOperationsSetTheLivePins : Obligations.PortInputOperationsSetTheLivePins := by
  unfold Obligations.PortInputOperationsSetTheLivePins
  intro s c p v chip
  exact ⟨pinRequest_plain_opsel 0b0100 c [v.toNat], pinRequest_plain_opsel 0b0101 c [v.toNat],
    writeChip_eq chip rfl, writeChip_eq chip rfl⟩

/-! ### Outputs (R191, R304) -/

/-- Only bit 7 of the auxiliary control register drives a pin of port B. -/
theorem Pic.pbDrive_bit (p : Pic) {b : Nat} (hb : b < 8) :
    p.pbDrive.getLsbD b = (p.ddrb.getLsbD b || (p.acr.getLsbD b && decide (b = 7))) := by
  have mask : (0x80#8).getLsbD b = decide (b = 7) := by
    revert b; decide
  rw [Pic.pbDrive, BitVec.getLsbD_or, BitVec.getLsbD_and, mask]

/-- Pin 7 of port B carries the timer output where timer 1 drives it; every other level is the output register's. -/
theorem Pic.pbLevel_bit (p : Pic) {b : Nat} (hb : b < 8) :
    p.pbLevel.getLsbD b = if b = 7 ∧ p.acr.getLsbD 7 = true then p.pb7Out else p.orb.getLsbD b := by
  cases timer : p.acr.getLsbD 7 with
  | false => simp only [Pic.pbLevel, timer, Bool.false_eq_true, and_false, if_false]
  | true =>
    rw [Pic.pbLevel, if_pos timer, BitVec.getLsbD_append]
    by_cases low : b < 7
    · simp [low, Nat.ne_of_lt low]
    · obtain rfl : b = 7 := by omega
      simp

/-- Settles O24, from the two outputs of port B bit by bit. -/
theorem pinAndInterruptOutputs : Obligations.PinAndInterruptOutputs := by
  unfold Obligations.PinAndInterruptOutputs
  refine ⟨fun p b hb => ⟨rfl, rfl, fun low => ?_, fun top => ?_⟩, fun x => Bool.or_eq_true_iff⟩
  · have ne : b ≠ 7 := Nat.ne_of_lt low
    simp only [Pic.pbDrive_bit p hb, Pic.pbLevel_bit p hb, ne, decide_false, Bool.and_false, Bool.or_false, false_and,
      if_false, and_self]
  · subst top
    simp only [Pic.pbDrive_bit p hb, Pic.pbLevel_bit p hb, decide_true, Bool.and_true, true_and, and_self]

/-! ### Refusals (U8, U9, U11, U14) -/

/-- The reasons for which operation `i` can be refused in state `s`. -/
inductive RefusedFor (i : Instr) (s : State) : Refusal → Prop
  | noSuchDrive {d} (named : driveNamed i = some d) (absent : s.drives.length ≤ d) : RefusedFor i s .noSuchDrive
  | noSuchTrack {d t x} (named : trackNamed i = some (d, t)) (found : s.drives[d]? = some x)
      (outside : ¬ trackInRange s.cfg t) : RefusedFor i s .noSuchTrack
  | noDisk {d t x} (named : trackNamed i = some (d, t)) (found : s.drives[d]? = some x) (inside : trackInRange s.cfg t)
      (missing : x.diskPresent = false ∨ x.tracks[t - 1]? = none) : RefusedFor i s .noDisk
  | noSuchSector {d t image n id1 id2} (op : i = .trkUpdateSector d t image n id1 id2)
      (outside : sectorsOf s.cfg t ≤ n) : RefusedFor i s .noSuchSector
  | operandLength {bs : List Byte} (op : (i = .gcrDecHeader bs ∧ bs.length ≠ 10) ∨
      (i = .gcrEncData bs ∧ bs.length ≠ 256) ∨ (i = .gcrDecData bs ∧ bs.length ≠ 325)) : RefusedFor i s .operandLength
  | imageSector {d t image n id1 id2} (op : i = .drvInsert d image id1 id2 ∨ i = .trkBuild d t image id1 id2 ∨
      i = .trkUpdateSector d t image n id1 id2) (partly : ∃ e ∈ image, e.bytes.length ≠ 256) :
      RefusedFor i s .imageSector
  | mechPortValue {d v x} (op : i = .mechWrite d v) (found : s.drives[d]? = some x)
      (other : v ≠ x.pic2.orb &&& x.pic2.ddrb) : RefusedFor i s .mechPortValue

/-- An image that is not well formed has a sector that is not 256 bytes. -/
theorem Image.exists_length_ne {image : Image} (h : ¬ Image.wellFormed image = true) :
    ∃ e ∈ image, e.bytes.length ≠ 256 := by
  simpa [Image.wellFormed] using h

section Refusals

variable {i : Instr} {s : State} {r : Refusal} {c : ChipRef} {d t : Nat}

/-- A chip that is not there belongs to a drive that is not there. -/
theorem RefusedFor.of_chipAt_none (h : s.chipAt c = none) (named : driveNamed i = driveOf c) :
    RefusedFor i s .noSuchDrive := by
  cases c with
  | standalone => cases h
  | pic1 d => exact .noSuchDrive named (List.getElem?_eq_none_iff.mp (Option.map_eq_none_iff.mp h))
  | pic2 d => exact .noSuchDrive named (List.getElem?_eq_none_iff.mp (Option.map_eq_none_iff.mp h))

/-- A register read is refused only where the chip is not there. -/
theorem RefusedFor.of_readChip {f : Pic → Byte × Pic} (h : readChip c f s = .refused r)
    (named : driveNamed i = driveOf c) : RefusedFor i s r := by
  unfold readChip at h
  split at h
  · cases h; exact .of_chipAt_none ‹_› named
  · cases h

/-- A change of a chip is refused only where the chip is not there. -/
theorem RefusedFor.of_writeChip {f : Pic → Pic} (h : writeChip c f s = .refused r)
    (named : driveNamed i = driveOf c) : RefusedFor i s r := by
  unfold writeChip at h
  split at h
  · cases h; exact .of_chipAt_none ‹_› named
  · cases h

/-- A port B write is refused only where the chip is not there. -/
theorem RefusedFor.of_writePortB {f : Pic → Pic} (h : writePortB c f s = .refused r)
    (named : driveNamed i = driveOf c) : RefusedFor i s r := by
  unfold writePortB at h
  split at h
  · cases h; exact .of_chipAt_none ‹_› named
  · cases h

/-- An operation on a drive is refused where the drive is not there, or by its continuation. -/
theorem RefusedFor.of_onDrive {k : Drive → Host.Outcome State Fault Refusal} (h : onDrive s d k = .refused r)
    (named : driveNamed i = some d) (rest : ∀ x, s.drives[d]? = some x → k x = .refused r → RefusedFor i s r) :
    RefusedFor i s r := by
  unfold onDrive at h
  split at h
  · cases h; exact .noSuchDrive named (List.getElem?_eq_none_iff.mp ‹_›)
  · exact rest _ ‹_› h

/-- An operation on a drive whose continuation always completes. -/
theorem RefusedFor.of_onDrive_next {k : Drive → State} (h : onDrive s d (fun x => .next (k x)) = .refused r)
    (named : driveNamed i = some d) : RefusedFor i s r :=
  .of_onDrive h named fun _ _ => nofun

/-- An operation on a track is refused where the drive, the track or the disk is not there, or by its continuation. -/
theorem RefusedFor.of_onTrack {k : Track → Host.Outcome State Fault Refusal} (h : onTrack s d t k = .refused r)
    (track : trackNamed i = some (d, t)) (drive : driveNamed i = some d)
    (rest : ∀ b, k b = .refused r → RefusedFor i s r) : RefusedFor i s r := by
  refine .of_onDrive h drive fun x found h => ?_
  split at h
  next inside =>
    split at h
    next present =>
      split at h
      next missing => cases h; exact .noDisk track found inside (.inr missing)
      next b _ => exact rest b h
    next absent => cases h; exact .noDisk track found inside (.inl (Bool.eq_false_of_not_eq_true absent))
  next outside => cases h; exact .noSuchTrack track found outside

/-- An operation on a track whose continuation always completes. -/
theorem RefusedFor.of_onTrack_next {k : Track → State} (h : onTrack s d t (fun b => .next (k b)) = .refused r)
    (track : trackNamed i = some (d, t)) (drive : driveNamed i = some d) : RefusedFor i s r :=
  .of_onTrack h track drive fun _ => nofun

/-- A test that refuses when it fails refuses for that reason only. -/
theorem refused_of_ite {P : Prop} [Decidable P] {u : State} {why : Refusal}
    (h : (if P then .next u else .refused why : Host.Outcome State Fault Refusal) = .refused r) : ¬ P ∧ why = r := by
  split at h
  next => cases h
  next fails => cases h; exact ⟨fails, rfl⟩

end Refusals

/-- Every refusal of an operation is for one of the reasons: by the shared operation through which it can stop. -/
theorem exec_refused {i : Instr} {s : State} {r : Refusal} (h : exec i s = .refused r) : RefusedFor i s r := by
  cases i with
  | rdOrb c | rdOra c | rdDdrb c | rdDdra c | rdT1cl c | rdT1ch c | rdT1ll c | rdT1lh c
  | rdT2cl c | rdT2ch c | rdSr c | rdAcr c | rdPcr c | rdIfr c | rdIer c | rdOranh c => exact .of_readChip h rfl
  | wrOrb c v | wrDdrb c v => exact .of_writePortB h rfl
  | resetPic c => exact .of_writePortB h rfl
  | wrOra c v | wrDdra c v | wrT1cl c v | wrT1ch c v | wrT1ll c v | wrT1lh c v | wrT2cl c v | wrT2ch c v
  | wrSr c v | wrAcr c v | wrPcr c v | wrIfr c v | wrIer c v | wrOranh c v => exact .of_writeChip h rfl
  | setCa1 c l | setCa2 c l | setCb1 c l | setCb2 c l => exact .of_writeChip h rfl
  | setPaIn c v | setPbIn c v => exact .of_writeChip h rfl
  | tick c n => exact .of_writeChip h rfl
  | hostSet a c d => cases h
  | busUpdate | busGetHostInput | reset => cases h
  | busTick n => cases h
  | busAttach d | busDetach d | drvGetClkOut d | drvGetDataOut d | drvEject d => exact .of_onDrive_next h rfl
  | drvSetAtnIn d l | drvSetClkIn d l | drvSetDataIn d l => exact .of_onDrive_next h rfl
  | drvTick d n => exact .of_onDrive_next h rfl
  | drvMemrd d a => exact .of_onDrive_next h rfl
  | drvMemwr d a v => exact .of_onDrive_next h rfl
  | drvSetWp d b => exact .of_onDrive_next h rfl
  | drvInsert d image a b =>
    refine .of_onDrive h rfl fun x _ stop => ?_
    obtain ⟨partly, rfl⟩ := refused_of_ite stop
    exact .imageSector (t := 0) (n := 0) (.inl rfl) (Image.exists_length_ne partly)
  | mechWrite d v =>
    refine .of_onDrive h rfl fun x found stop => ?_
    obtain ⟨other, rfl⟩ := refused_of_ite stop
    exact .mechPortValue rfl found other
  | gcrEncGroup a b c d => cases h
  | gcrDecGroup a b c d e => cases h
  | gcrEncHeader a b c d => cases h
  | gcrDecHeader frame =>
    obtain ⟨length, rfl⟩ := refused_of_ite h
    exact .operandLength (.inl ⟨rfl, length⟩)
  | gcrEncData payload =>
    obtain ⟨length, rfl⟩ := refused_of_ite h
    exact .operandLength (.inr (.inl ⟨rfl, length⟩))
  | gcrDecData frame =>
    obtain ⟨length, rfl⟩ := refused_of_ite h
    exact .operandLength (.inr (.inr ⟨rfl, length⟩))
  | trkReadByte d t | trkIsSync d t => exact .of_onTrack_next h rfl rfl
  | trkWriteByte d t v => exact .of_onTrack_next h rfl rfl
  | trkBuild d t image a b =>
    refine .of_onTrack h rfl rfl fun _ stop => ?_
    obtain ⟨partly, rfl⟩ := refused_of_ite stop
    exact .imageSector (n := 0) (.inr (.inl rfl)) (Image.exists_length_ne partly)
  | trkUpdateSector d t image n a b =>
    refine .of_onTrack h rfl rfl fun _ stop => ?_
    split at stop
    next =>
      obtain ⟨partly, rfl⟩ := refused_of_ite stop
      exact .imageSector (.inr (.inr rfl)) (Image.exists_length_ne partly)
    next outside => cases stop; exact .noSuchSector rfl (Nat.le_of_not_lt outside)

/-- Settles O6: the reasons of `RefusedFor` are those of the statement, one by one. -/
theorem refusalsNameTheirReason : Obligations.RefusalsNameTheirReason := by
  unfold Obligations.RefusalsNameTheirReason
  intro i s r h
  cases exec_refused h with
  | noSuchDrive named absent => exact .inl ⟨_, rfl, named, absent⟩
  | noSuchTrack named found outside => exact .inr (.inl ⟨_, _, _, named, found, .inl ⟨rfl, outside⟩⟩)
  | noDisk named found inside missing => exact .inr (.inl ⟨_, _, _, named, found, .inr ⟨rfl, inside, missing⟩⟩)
  | noSuchSector op outside => exact .inr (.inr (.inl ⟨_, _, _, _, _, _, rfl, op, outside⟩))
  | operandLength op => exact .inr (.inr (.inr (.inl ⟨_, rfl, op⟩)))
  | imageSector op partly => exact .inr (.inr (.inr (.inr (.inl ⟨_, _, _, _, _, _, rfl, op, partly⟩))))
  | mechPortValue op found other => exact .inr (.inr (.inr (.inr (.inr ⟨_, _, _, rfl, op, found, other⟩))))

end Sys2Proof.Machine

/-! PROOFS. The family of spec/42_serial_bus.md: the wired port inputs of a drive (R213, R293, R294), the open-collector
lines (R200 to R202, R207), the line inputs of a drive (R204 to R206), and what the bus operations do to the attached
drives (R203, R208 to R210). -/

namespace Sys2Proof.Machine

/-! ### The wired port inputs, one line at a time (R213, R293) -/

section Wiring

variable {cfg : Config}

/-- The three line inputs of PIC1 are on different bits (log 18). -/
theorem lineInputs_ne (config : ConfigUsable cfg) :
    cfg.bAtnIn ≠ cfg.bClkIn ∧ cfg.bAtnIn ≠ cfg.bDataIn ∧ cfg.bClkIn ≠ cfg.bDataIn := by
  have distinct := config.busPins.1
  simp only [List.nodup_cons, List.mem_cons, not_or] at distinct
  obtain ⟨⟨-, ne_clk, -, ne_atn, -⟩, -, ⟨-, clk_ne_atn, -⟩, -⟩ := distinct
  exact ⟨Ne.symm clk_ne_atn, Ne.symm ne_atn, Ne.symm ne_clk⟩

/-- The two status bits of PIC2 are different bits (log 18). -/
theorem statusBits_ne (config : ConfigUsable cfg) : cfg.mWps ≠ cfg.mSync := by
  have distinct := config.mechPins.1
  simp only [List.nodup_cons, List.mem_cons, not_or] at distinct
  obtain ⟨-, -, -, -, ⟨ne, -⟩, -⟩ := distinct
  exact ne

theorem pic1Inputs_setAtn (config : ConfigUsable cfg) (atn clk data level : Bool) :
    setBit (pic1Inputs cfg atn clk data) cfg.bAtnIn level = pic1Inputs cfg level clk data := by
  obtain ⟨atn_ne_clk, atn_ne_data, -⟩ := lineInputs_ne config
  simp only [pic1Inputs]
  rw [setBit_comm _ data level atn_ne_data.symm, setBit_comm _ clk level atn_ne_clk.symm, setBit_setBit]

theorem pic1Inputs_setClk (config : ConfigUsable cfg) (atn clk data level : Bool) :
    setBit (pic1Inputs cfg atn clk data) cfg.bClkIn level = pic1Inputs cfg atn level data := by
  obtain ⟨-, -, clk_ne_data⟩ := lineInputs_ne config
  simp only [pic1Inputs]
  rw [setBit_comm _ data level clk_ne_data.symm, setBit_setBit]

theorem pic1Inputs_setData (atn clk data level : Bool) :
    setBit (pic1Inputs cfg atn clk data) cfg.bDataIn level = pic1Inputs cfg atn clk level := setBit_setBit ..

theorem pic2Inputs_setSync (config : ConfigUsable cfg) (inSync wp m : Bool) :
    setBit (pic2Inputs cfg inSync wp) cfg.mSync (!m) = pic2Inputs cfg m wp := by
  simp only [pic2Inputs]
  rw [setBit_comm _ (!wp) (!m) (statusBits_ne config), setBit_setBit]

theorem pic2Inputs_setWps (inSync wp b : Bool) :
    setBit (pic2Inputs cfg inSync wp) cfg.mWps (!b) = pic2Inputs cfg inSync b := setBit_setBit ..

end Wiring

/-! ### Which chip changes keep the port inputs (R23) -/

/-- Chip `q` has the port inputs of chip `p`. -/
structure SamePins (p q : Pic) : Prop where
  ina : q.ina = p.ina
  inb : q.inb = p.inb

theorem SamePins.refl (p : Pic) : SamePins p p := ⟨rfl, rfl⟩

/-- An operation that does not set port inputs changes a chip by functions that keep them. -/
theorem PicEffect.samePins {i : Instr} {hook : Bool} {f : Pic → Pic} (h : PicEffect i hook f)
    (keeps : setsPortInputs i = false) (p : Pic) : SamePins p (f p) := ⟨(h.pins p keeps).1, (h.pins p keeps).2⟩

theorem SamePins.clearA (p : Pic) : SamePins p p.clearA := (PicEffect.clearA .reset true).samePins rfl p

theorem SamePins.clearB (p : Pic) : SamePins p p.clearB := (PicEffect.clearB .reset true).samePins rfl p

theorem SamePins.setCa1 (level : Bool) (p : Pic) : SamePins p (p.setCa1 level) :=
  (PicEffect.setCa1 .busUpdate true level rfl).samePins rfl p

theorem SamePins.ticks (cfg : Config) (n : Nat) (p : Pic) : SamePins p (p.ticks cfg n) :=
  ⟨(p.ticks_inputs cfg n).1, (p.ticks_inputs cfg n).2⟩

/-- A register read keeps the port inputs: at most it clears flags. -/
theorem SamePins.regRead (r : Nat) (p : Pic) : SamePins p (p.regRead r).2 := by
  unfold Pic.regRead
  split
  case h_1 => exact .clearB p
  case h_2 => exact .clearA p
  all_goals exact ⟨rfl, rfl⟩

/-- A register write keeps the port inputs: no register holds them. -/
theorem SamePins.regWrite (r : Nat) (v : Byte) (p : Pic) : SamePins p (p.regWrite r v) := by
  unfold Pic.regWrite
  split
  case h_1 => exact ⟨(SamePins.clearB { p with orb := v }).ina, (SamePins.clearB { p with orb := v }).inb⟩
  case h_2 => exact ⟨(SamePins.clearA { p with ora := v }).ina, (SamePins.clearA { p with ora := v }).inb⟩
  all_goals exact ⟨rfl, rfl⟩

/-- Of the operations on a chip inside a drive only SET_PA_IN and SET_PB_IN there set port inputs. -/
theorem setsPortInputs_eq_false {i : Instr} {c : ChipRef} (h : setsWiredPins i = false) (named : chipNamed i = some c)
    (inDrive : c ≠ .standalone) : setsPortInputs i = false := by
  cases i with
  | setPaIn c' v | setPbIn c' v =>
    cases named
    cases c with
    | standalone => exact absurd rfl inDrive
    | pic1 d | pic2 d => cases h
  | _ => rfl

/-! ### The pins of a drive stay as wired (R213, R293, R294) -/

section Pins

variable {cfg : Config} {x : Drive}

/-- The wiring looks at the port inputs of the two chips and at the six values shown there. -/
theorem PinsWired.congr (h : PinsWired cfg x) {y : Drive} (pic1 : SamePins x.pic1 y.pic1)
    (pic2 : SamePins x.pic2 y.pic2) (lines : y.atnIn = x.atnIn ∧ y.clkIn = x.clkIn ∧ y.dataIn = x.dataIn)
    (status : y.inSync = x.inSync ∧ y.writeProtect = x.writeProtect ∧ y.headByte = x.headByte) :
    PinsWired cfg y := by
  obtain ⟨atn, clk, data⟩ := lines
  obtain ⟨sync, protect, byte⟩ := status
  exact
    { pic1B := by rw [pic1.inb, atn, clk, data, h.pic1B]
      pic1A := pic1.ina.trans h.pic1A
      pic2B := by rw [pic2.inb, sync, protect, h.pic2B]
      pic2A := by rw [pic2.ina, byte, h.pic2A] }

theorem PinsWired.withPic1 (h : PinsWired cfg x) {p : Pic} (pins : SamePins x.pic1 p) :
    PinsWired cfg { x with pic1 := p } := h.congr pins (.refl _) ⟨rfl, rfl, rfl⟩ ⟨rfl, rfl, rfl⟩

theorem PinsWired.withPic2 (h : PinsWired cfg x) {p : Pic} (pins : SamePins x.pic2 p) :
    PinsWired cfg { x with pic2 := p } := h.congr (.refl _) pins ⟨rfl, rfl, rfl⟩ ⟨rfl, rfl, rfl⟩

/-- The mechanics have no part in the wiring. -/
theorem PinsWired.mechWrite (h : PinsWired cfg x) (v : Byte) : PinsWired cfg (x.mechWrite cfg v) :=
  h.congr (.refl _) (.refl _) ⟨rfl, rfl, rfl⟩ ⟨rfl, rfl, rfl⟩

theorem PinsWired.setAtnIn (h : PinsWired cfg x) (config : ConfigUsable cfg) (line : Bool) :
    PinsWired cfg (x.setAtnIn cfg line) :=
  { h with
    pic1B := by
      rw [Drive.setAtnIn, (SamePins.setCa1 _ _).inb]
      exact (congrArg (setBit · cfg.bAtnIn (!line)) h.pic1B).trans (pic1Inputs_setAtn config ..)
    pic1A := (SamePins.setCa1 _ _).ina.trans h.pic1A }

theorem PinsWired.setClkIn (h : PinsWired cfg x) (config : ConfigUsable cfg) (line : Bool) :
    PinsWired cfg (x.setClkIn cfg line) :=
  { h with pic1B := (congrArg (setBit · cfg.bClkIn (!line)) h.pic1B).trans (pic1Inputs_setClk config ..) }

theorem PinsWired.setDataIn (h : PinsWired cfg x) (line : Bool) : PinsWired cfg (x.setDataIn cfg line) :=
  { h with pic1B := (congrArg (setBit · cfg.bDataIn (!line)) h.pic1B).trans (pic1Inputs_setData ..) }

theorem PinsWired.pushLines (h : PinsWired cfg x) (config : ConfigUsable cfg) (l : Lines) :
    PinsWired cfg (x.pushLines cfg l) := ((h.setAtnIn config l.atn).setClkIn config l.clk).setDataIn l.data

theorem PinsWired.iterate {f : Drive → Drive} (keeps : ∀ y, PinsWired cfg y → PinsWired cfg (f y))
    (h : PinsWired cfg x) (n : Nat) : PinsWired cfg (f^[n] x) :=
  Function.Iterate.rec (PinsWired cfg) h keeps n

/-- Showing the sync mode restores the wiring of a drive whose sync mode changed. -/
theorem PinsWired.showSync (h : PinsWired cfg x) (config : ConfigUsable cfg) (m : Bool) :
    PinsWired cfg (({ x with inSync := m } : Drive).showSync cfg) :=
  { h with pic2B := (congrArg (setBit · cfg.mSync (!m)) h.pic2B).trans (pic2Inputs_setSync config ..) }

/-- A byte shown on port A of PIC2 is the byte that is kept as the last one consumed (R294). -/
theorem PinsWired.showByte (h : PinsWired cfg x) (b : Byte) : PinsWired cfg (x.showByte b) := { h with pic2A := rfl }

theorem PinsWired.setTrack (h : PinsWired cfg x) (t : Nat) (b : Track) : PinsWired cfg (x.setTrack t b) :=
  h.congr (.refl _) (.refl _) ⟨rfl, rfl, rfl⟩ ⟨rfl, rfl, rfl⟩

/-- A byte-ready signal reaches CA1 of PIC2 only (R272). -/
theorem PinsWired.signal (h : PinsWired cfg x) : PinsWired cfg x.signal := by
  rw [Drive.signal_eq]
  exact h.withPic2 ⟨rfl, rfl⟩

/-- The sync mode and the signal of a consumed byte do not meet. -/
theorem Drive.signal_withSync (x : Drive) (m : Bool) :
    ({ x with inSync := m } : Drive).signal = { x.signal with inSync := m } := rfl

theorem PinsWired.consumeByte (h : PinsWired cfg x) (config : ConfigUsable cfg) (t : Nat) :
    PinsWired cfg (x.consumeByte cfg t).1 := by
  rcases Drive.consumeByte_cases cfg t x with idle | ⟨b, m, -, quiet | signalled⟩
  · rw [idle]; exact h
  · rw [quiet]
    exact ((h.setTrack t b.advance).showByte b.here).showSync config m
  · rw [signalled, Drive.byteShown, Drive.signal_withSync]
    exact ((h.setTrack t b.advance).showByte b.here).signal.showSync config m

theorem PinsWired.ticks (h : PinsWired cfg x) (config : ConfigUsable cfg) (n : Nat) :
    PinsWired cfg (x.ticks cfg n).1 :=
  Drive.ticks_induction cfg n (PinsWired cfg)
    (fun y hy => (hy.withPic1 (.ticks cfg n y.pic1)).withPic2 (.ticks cfg n y.pic2))
    (fun _ _ hy => hy.congr (.refl _) (.refl _) ⟨rfl, rfl, rfl⟩ ⟨rfl, rfl, rfl⟩)
    (fun _ t hy => hy.consumeByte config t) x h

theorem PinsWired.memRead (h : PinsWired cfg x) (powerOns d addr : Nat) :
    PinsWired cfg (x.memRead cfg powerOns d addr).2 := by
  rcases Drive.memRead_cases cfg powerOns d addr x with e | ⟨r, e⟩ | ⟨r, e⟩ <;> rw [e]
  · exact h
  · exact h.withPic1 (.regRead r x.pic1)
  · exact h.withPic2 (.regRead r x.pic2)

theorem PinsWired.memWrite (h : PinsWired cfg x) (addr : Nat) (v : Byte) : PinsWired cfg (x.memWrite cfg addr v) := by
  rcases Drive.memWrite_cases cfg addr v x with e | ⟨_, -, e⟩ | ⟨r, e⟩ | ⟨r, e⟩ | ⟨r, e⟩ <;> rw [e]
  · exact h
  · exact h.congr (.refl _) (.refl _) ⟨rfl, rfl, rfl⟩ ⟨rfl, rfl, rfl⟩
  · exact h.withPic1 (.regWrite r v x.pic1)
  · exact h.withPic2 (.regWrite r v x.pic2)
  · exact (h.withPic2 (.regWrite r v x.pic2)).mechWrite _

/-- An eject ends the sync mode and shows it (R295). -/
theorem PinsWired.eject (h : PinsWired cfg x) (config : ConfigUsable cfg) : PinsWired cfg (x.eject cfg) :=
  (h.showSync config false).congr (.refl _) (.refl _) ⟨rfl, rfl, rfl⟩ ⟨rfl, rfl, rfl⟩

theorem PinsWired.insert (h : PinsWired cfg x) (config : ConfigUsable cfg) (image : Image) (id1 id2 : Byte) :
    PinsWired cfg (x.insert cfg image id1 id2) := by
  have before : PinsWired cfg (if x.diskPresent then x.eject cfg else x) := by
    split
    · exact h.eject config
    · exact h
  exact before.congr (.refl _) (.refl _) ⟨rfl, rfl, rfl⟩ ⟨rfl, rfl, rfl⟩

theorem PinsWired.setWp (h : PinsWired cfg x) (b : Bool) : PinsWired cfg (x.setWp cfg b) :=
  { h with pic2B := (congrArg (setBit · cfg.mWps (!b)) h.pic2B).trans (pic2Inputs_setWps ..) }

end Pins

/-- Every effect of an operation on a drive keeps the pins as wired, but for a direct setting of port inputs. -/
theorem DriveEffect.keeps_wired {i : Instr} {s : State} {d : Nat} {x y : Drive} (config : ConfigUsable s.cfg)
    (notDirect : setsWiredPins i = false) (wired : PinsWired s.cfg x) (h : DriveEffect i s d x y) :
    PinsWired s.cfg y := by
  cases h with
  | same => exact wired
  | pic1 f effect named =>
    have keeps := setsPortInputs_eq_false notDirect named (by simp)
    exact wired.withPic1 (effect.elim (·.samePins keeps _) (·.samePins keeps _))
  | pic2 f effect named =>
    exact wired.withPic2 (effect.samePins (setsPortInputs_eq_false notDirect named (by simp)) _)
  | hook f effect op =>
    have keeps : setsPortInputs i = false := by rcases op with rfl | ⟨v, rfl⟩ | ⟨v, rfl⟩ <;> rfl
    exact (wired.withPic2 (effect.samePins keeps _)).mechWrite _
  | push l n => exact wired.iterate (fun _ hy => hy.pushLines config l) n
  | busTick n k => exact wired.iterate (fun _ hy => hy.ticks config n) k
  | atnIn l => exact wired.setAtnIn config l
  | clkIn l => exact wired.setClkIn config l
  | dataIn l => exact wired.setDataIn l
  | tick n => exact wired.ticks config n
  | memRead a => exact wired.memRead s.powerOns d a
  | memWrite a v => exact wired.memWrite a v
  | insert image id1 id2 => exact wired.insert config image id1 id2
  | eject => exact wired.eject config
  | setWp b => exact wired.setWp b
  | mechWrite v => exact wired.mechWrite v
  | track t b b' => exact wired.setTrack t b'
  | reset => exact .reset _ _

/-- Settles O57: what a drive holds after an operation is an effect on what it held before, and every effect keeps the
wiring. -/
theorem portInputsStayAsWired : Obligations.PortInputsStayAsWired := by
  unfold Obligations.PortInputsStayAsWired
  intro i s t config wired notDirect hexec y hy
  have effects := exec_effects i s t hexec
  obtain ⟨d, hd⟩ := List.mem_iff_getElem?.mp hy
  obtain ⟨x, hx, effect⟩ := effects.drive_before hd
  rw [effects.cfg]
  exact effect.keeps_wired config notDirect (wired x (List.mem_of_getElem? hx))

/-! ### The selector of a bus operation (R102) -/

/-- The selector does not depend on the operands. -/
theorem kindRequest_opsel (cls : BitVec 2) (kind : BitVec 6) (args : List Nat) :
    (kindRequest cls kind args).opsel = cls ++ kind := rfl

/-! ### The contributions to the lines (R200 to R202, R207) -/

theorem Drive.clkOut_eq_false_iff (cfg : Config) (x : Drive) :
    x.clkOut cfg = false ↔ x.pic1.orb.getLsbD cfg.bClkOut = true ∧ x.pic1.ddrb.getLsbD cfg.bClkOut = true := by
  rw [Drive.clkOut, Bool.not_eq_false', Bool.and_eq_true]

theorem Drive.dataOut_eq_false_iff (cfg : Config) (x : Drive) :
    x.dataOut cfg = false ↔ x.pic1.orb.getLsbD cfg.bDataOut = true ∧ x.pic1.ddrb.getLsbD cfg.bDataOut = true := by
  rw [Drive.dataOut, Bool.not_eq_false', Bool.and_eq_true]

/-- Settles O27: the contribution of a drive is the model's test of its pin. -/
theorem contributionsOfHostAndDrives : Obligations.ContributionsOfHostAndDrives := by
  unfold Obligations.ContributionsOfHostAndDrives
  refine fun s => ⟨fun a k l => ⟨kindRequest_opsel .., rfl⟩, fun d x hx => ?_⟩
  exact ⟨kindRequest_opsel .., kindRequest_opsel .., x.clkOut s.cfg, x.dataOut s.cfg,
    onDrive_of_some hx _, x.clkOut_eq_false_iff s.cfg, onDrive_of_some hx _, x.dataOut_eq_false_iff s.cfg⟩

/-- CLK is released exactly when the host and every attached drive release it. -/
theorem State.resolve_clk_iff (s : State) :
    s.resolve.clk = true ↔ s.bus.hostClk = true ∧ ∀ d ∈ s.bus.attached, ∀ x, s.drives[d]? = some x →
      ¬ (x.pic1.orb.getLsbD s.cfg.bClkOut = true ∧ x.pic1.ddrb.getLsbD s.cfg.bClkOut = true) := by
  simp only [State.resolve, Bool.and_eq_true, State.allRelease_iff, ← Drive.clkOut_eq_false_iff, Bool.not_eq_false]

/-- DATA is released exactly when the host and every attached drive release it. -/
theorem State.resolve_data_iff (s : State) :
    s.resolve.data = true ↔ s.bus.hostData = true ∧ ∀ d ∈ s.bus.attached, ∀ x, s.drives[d]? = some x →
      ¬ (x.pic1.orb.getLsbD s.cfg.bDataOut = true ∧ x.pic1.ddrb.getLsbD s.cfg.bDataOut = true) := by
  simp only [State.resolve, Bool.and_eq_true, State.allRelease_iff, ← Drive.dataOut_eq_false_iff, Bool.not_eq_false]

/-- Settles O28: the host reads the two resolved lines. -/
theorem linesAreReleasedWhenEveryDeviceReleasesThem : Obligations.LinesAreReleasedWhenEveryDeviceReleasesThem := by
  unfold Obligations.LinesAreReleasedWhenEveryDeviceReleasesThem
  exact fun s => ⟨kindRequest_opsel .., rfl, s.resolve.clk, s.resolve.data, rfl, rfl, rfl, s.resolve_clk_iff,
    s.resolve_data_iff⟩

/-! ### The line inputs of a drive (R204 to R206) -/

/-- ATN in one equation: the level is cached, shown and reported to CA1 of PIC1. -/
theorem Drive.setAtnIn_eq (cfg : Config) (line : Bool) (x : Drive) :
    x.setAtnIn cfg line = { x with
      atnIn := !line
      pic1 := { x.pic1.setCa1 (!line) with inb := setBit x.pic1.inb cfg.bAtnIn (!line) } } := by
  rw [Drive.setAtnIn, Pic.setCa1_eq, Pic.setCa1_eq]
  rfl

/-- A drive operation that makes `y` of the drive that is there. -/
theorem onDrive_update_eq {s : State} {d : Nat} {x y : Drive} (hx : s.drives[d]? = some x) {f : Drive → Drive}
    (change : f x = y) (r : Result) :
    onDrive s d (fun _ => .next ((s.updateDrive d f).returning r)) =
      .next ((s.updateDrive d fun _ => y).returning r) := by
  rw [onDrive_of_some hx, State.updateDrive_congr hx (g := fun _ => y) change]

/-- Settles O29: each setter places one bit; the edge of ATN is that of a report on CA1. -/
theorem lineInputsAreCachedShownAndAtnReachesCa1 : Obligations.LineInputsAreCachedShownAndAtnReachesCa1 := by
  unfold Obligations.LineInputsAreCachedShownAndAtnReachesCa1
  intro s d x l hx
  have shown (i : Nat) : ∀ b, b < 8 →
      (setBit x.pic1.inb i (!l)).getLsbD b = if b = i then !l else x.pic1.inb.getLsbD b :=
    fun b hb => setBit_bit x.pic1.inb i b (!l) hb
  have reported := (x.setAtnIn_eq s.cfg l).trans (congrArg (fun p : Pic => { x with
    atnIn := !l, pic1 := { p with inb := setBit x.pic1.inb s.cfg.bAtnIn (!l) } }) (Pic.setCa1_eq (!l) x.pic1))
  refine ⟨kindRequest_opsel .., kindRequest_opsel .., kindRequest_opsel .., _, _, _, _, _, shown s.cfg.bAtnIn,
    shown s.cfg.bClkIn, shown s.cfg.bDataIn, x.pic1.setFlag_flagSetWhen flagCa1 (activeEdge_iff ..), ?_, ?_,
    onDrive_update_eq hx reported .none, onDrive_update_eq hx rfl .none, onDrive_update_eq hx rfl .none⟩
  · exact fun latched => if_pos ((latchEdge_iff ..).mpr latched)
  · exact fun kept => if_neg (mt (latchEdge_iff ..).mp kept)

/-! ### The attached drives (R208, R209) -/

/-- A drive that is attached joins no second time. -/
theorem attachIndex_of_mem {d : Nat} {l : List Nat} (member : d ∈ l) (rising : l.Pairwise (· < ·)) :
    attachIndex d l = l := by
  induction l with
  | nil => cases member
  | cons e l ih =>
    obtain ⟨below, rising⟩ := List.pairwise_cons.mp rising
    rw [attachIndex]
    rcases List.mem_cons.mp member with rfl | member
    · rw [if_neg (Nat.lt_irrefl d), if_pos rfl]
    · have := below d member
      rw [if_neg (by omega), if_neg (by omega), ih member rising]

/-- An operation on a drive that is present and does not look at it. -/
theorem onDrive_of_lt {s : State} {d : Nat} (h : d < s.drives.length) (t : Host.Outcome State Fault Refusal) :
    onDrive s d (fun _ => t) = t := onDrive_of_some (List.getElem?_eq_getElem h) _

/-- Settles O31: one joins the rising list, the other filters it. -/
theorem attachAndDetachChangeOnlyTheAttachedDrives : Obligations.AttachAndDetachChangeOnlyTheAttachedDrives := by
  unfold Obligations.AttachAndDetachChangeOnlyTheAttachedDrives
  intro s d present
  refine ⟨kindRequest_opsel .., kindRequest_opsel .., attachIndex d s.bus.attached,
    s.bus.attached.filter (· != d), onDrive_of_lt present _, fun e => mem_attachIndex d e _, attachIndex_of_mem,
    onDrive_of_lt present _, fun e => ?_, fun rising => ⟨attachIndex_rising d _ rising, rising.filter _⟩⟩
  rw [List.mem_filter, bne_iff_ne, and_comm]

/-! ### One change in every attached drive (R203) -/

/-- A state that differs only in its drives. -/
theorem State.eq_withDrives {s t : State} (cfg : t.cfg = s.cfg) (chip : t.chip = s.chip) (bus : t.bus = s.bus)
    (trace : t.trace = s.trace) (result : t.result = s.result) (pending : t.pending = s.pending)
    (powerOns : t.powerOns = s.powerOns) : t = { s with drives := t.drives } := by
  rw [← cfg, ← chip, ← bus, ← trace, ← result, ← pending, ← powerOns]

/-- The push of the lines in one equation: every drive is changed as often as it is attached. -/
theorem State.pushAll_eq_mapIdx (s : State) (l : Lines) :
    s.pushAll l =
      { s with drives := s.drives.mapIdx fun d => (Drive.pushLines s.cfg l)^[s.bus.attached.count d] } := by
  rw [State.pushAll_eq]
  obtain ⟨⟨cfg, chip, bus, trace, result, pending, powerOns, -⟩, drives⟩ :=
    State.foldl_updateDrive (Drive.pushLines s.cfg l) s.bus.attached s
  refine (State.eq_withDrives cfg chip bus trace result pending powerOns).trans ?_
  congr 1
  apply List.ext_getElem?
  intro d
  rw [drives d, List.getElem?_mapIdx]
  rfl

theorem State.pushAll_getElem? (s : State) (l : Lines) (d : Nat) :
    (s.pushAll l).drives[d]? = (s.drives[d]?).map (Drive.pushLines s.cfg l)^[s.bus.attached.count d] := by
  rw [State.pushAll_eq_mapIdx, List.getElem?_mapIdx]

/-! ### The resolved lines look at the attached drives' outputs only (R202) -/

theorem State.allRelease_congr {s t : State} {out : Drive → Bool} (attached : t.bus.attached = s.bus.attached)
    (same : ∀ d ∈ s.bus.attached, (t.drives[d]?).map out = (s.drives[d]?).map out) :
    t.allRelease out = s.allRelease out := by
  unfold State.allRelease
  rw [attached, Bool.eq_iff_iff, List.all_eq_true, List.all_eq_true]
  exact forall₂_congr fun d hd => by rw [same d hd]

theorem State.resolve_congr {s t : State} (cfg : t.cfg = s.cfg) (bus : t.bus = s.bus)
    (clk : ∀ d ∈ s.bus.attached, (t.drives[d]?).map (Drive.clkOut s.cfg) = (s.drives[d]?).map (Drive.clkOut s.cfg))
    (data : ∀ d ∈ s.bus.attached,
      (t.drives[d]?).map (Drive.dataOut s.cfg) = (s.drives[d]?).map (Drive.dataOut s.cfg)) :
    t.resolve = s.resolve := by
  have attached : t.bus.attached = s.bus.attached := by rw [bus]
  rw [State.resolve, State.resolve, cfg, State.allRelease_congr attached clk, State.allRelease_congr attached data, bus]

/-! ### A second push changes nothing (R203) -/

/-- A level reported to CA1 a second time is no edge. -/
theorem Pic.setCa1_setCa1 (level : Bool) (p : Pic) : (p.setCa1 level).setCa1 level = p.setCa1 level := by
  have noEdge (positive : Bool) : activeEdge positive level level = false := by
    cases positive <;> cases level <;> rfl
  rw [Pic.setCa1_eq level (p.setCa1 level)]
  simp only [Pic.setCa1_eq level p, noEdge, Bool.false_and, Bool.false_eq_true, if_false]

/-- CA1 does not look at port B. -/
theorem Pic.setCa1_withInb (level : Bool) (p : Pic) (v : Byte) :
    ({ p with inb := v } : Pic).setCa1 level = { p.setCa1 level with inb := v } := by
  rw [Pic.setCa1_eq, Pic.setCa1_eq]
  rfl

/-- The three line inputs placed on port B of PIC1. -/
def Lines.shownOn (cfg : Config) (l : Lines) (v : Byte) : Byte :=
  setBit (setBit (setBit v cfg.bAtnIn (!l.atn)) cfg.bClkIn (!l.clk)) cfg.bDataIn (!l.data)

/-- Placing the same three bits again changes nothing, also where two of them are the same bit. -/
theorem Lines.shownOn_shownOn (cfg : Config) (l : Lines) (v : Byte) :
    l.shownOn cfg (l.shownOn cfg v) = l.shownOn cfg v := by
  apply BitVec.eq_of_getLsbD_eq
  intro b hb
  simp only [Lines.shownOn, setBit_bit _ _ _ _ hb]
  split_ifs <;> rfl

/-- A push in one equation. -/
theorem Drive.pushLines_eq (cfg : Config) (l : Lines) (x : Drive) :
    x.pushLines cfg l = { x with
      atnIn := !l.atn
      clkIn := !l.clk
      dataIn := !l.data
      pic1 := { x.pic1.setCa1 (!l.atn) with inb := l.shownOn cfg x.pic1.inb } } := by
  rw [Drive.pushLines, Drive.setAtnIn_eq]
  rfl

theorem Drive.pushLines_pushLines (cfg : Config) (l : Lines) (x : Drive) :
    (x.pushLines cfg l).pushLines cfg l = x.pushLines cfg l := by
  rw [Drive.pushLines_eq cfg l x, Drive.pushLines_eq]
  simp only [Pic.setCa1_withInb, Pic.setCa1_setCa1, Lines.shownOn_shownOn]

/-- Pushing any number of times twice is pushing that often once. -/
theorem Drive.pushLines_iterate_twice (cfg : Config) (l : Lines) (n : Nat) (x : Drive) :
    (Drive.pushLines cfg l)^[n] ((Drive.pushLines cfg l)^[n] x) = (Drive.pushLines cfg l)^[n] x := by
  cases n with
  | zero => rfl
  | succ n =>
    have fixed : Function.IsFixedPt (Drive.pushLines cfg l) ((Drive.pushLines cfg l)^[n + 1] x) := by
      rw [Function.iterate_succ_apply']
      exact Drive.pushLines_pushLines cfg l _
    exact fixed.iterate (n + 1)

/-- A push reaches no output of the drive. -/
theorem Drive.pushLines_outputs (cfg : Config) (l : Lines) (x : Drive) :
    (x.pushLines cfg l).clkOut cfg = x.clkOut cfg ∧ (x.pushLines cfg l).dataOut cfg = x.dataOut cfg := by
  rw [Drive.pushLines_eq, Pic.setCa1_eq]
  exact ⟨rfl, rfl⟩

theorem Drive.pushLines_iterate_outputs (cfg : Config) (l : Lines) (n : Nat) (x : Drive) :
    ((Drive.pushLines cfg l)^[n] x).clkOut cfg = x.clkOut cfg ∧
      ((Drive.pushLines cfg l)^[n] x).dataOut cfg = x.dataOut cfg :=
  Function.Iterate.rec (fun y : Drive => y.clkOut cfg = x.clkOut cfg ∧ y.dataOut cfg = x.dataOut cfg) ⟨rfl, rfl⟩
    (fun y hy => ⟨(y.pushLines_outputs cfg l).1.trans hy.1, (y.pushLines_outputs cfg l).2.trans hy.2⟩) n

/-- A push leaves the lines as they are resolved. -/
theorem State.resolve_pushAll (s : State) (l : Lines) : (s.pushAll l).resolve = s.resolve := by
  have kept := Drive.pushLines_iterate_outputs s.cfg l
  refine State.resolve_congr (by rw [State.pushAll_eq_mapIdx]) (by rw [State.pushAll_eq_mapIdx])
    (fun d _ => ?_) (fun d _ => ?_) <;> rw [State.pushAll_getElem?, Option.map_map]
  · exact congrArg (Option.map · s.drives[d]?) (funext fun x => (kept _ x).1)
  · exact congrArg (Option.map · s.drives[d]?) (funext fun x => (kept _ x).2)

theorem State.pushAll_pushAll (s : State) (l : Lines) : (s.pushAll l).pushAll l = s.pushAll l := by
  simp only [State.pushAll_eq_mapIdx, List.mapIdx_mapIdx, Function.comp_def, Drive.pushLines_iterate_twice]

/-- The answer has no part in a push. -/
theorem State.pushAll_returning (s : State) (l : Lines) (r : Result) :
    (s.returning r).pushAll l = (s.pushAll l).returning r := by
  rw [State.pushAll_eq_mapIdx, State.pushAll_eq_mapIdx]
  rfl

/-- One BUS_UPDATE is a fixed point. -/
theorem execBusUpdate_again (s : State) :
    execBusUpdate ((s.pushAll s.resolve).returning .none) = .next ((s.pushAll s.resolve).returning .none) := by
  have lines : ((s.pushAll s.resolve).returning .none).resolve = s.resolve := s.resolve_pushAll s.resolve
  rw [execBusUpdate, lines, State.pushAll_returning, State.pushAll_pushAll]
  rfl

/-! ### The bus operations as sequences of drive operations (R203, R210) -/

theorem runAll_append {is js : List Instr} {s t : State} (h : runAll is s = .next t) :
    runAll (is ++ js) s = runAll js t := by
  induction is generalizing s with
  | nil => cases h; rfl
  | cons i is ih =>
    rw [runAll] at h
    rw [List.cons_append, runAll]
    cases first : exec i s with
    | next u => rw [first] at h; exact ih h
    | fault f => rw [first] at h; cases h
    | refused r => rw [first] at h; cases h

/-- Changes that do not look at the answer, made one after the other, do not look at it either. -/
theorem State.foldl_returning {g : State → Nat → State}
    (answer : ∀ s d r, g (s.returning r) d = (g s d).returning r) (ds : List Nat) (s : State) (r : Result) : ds.foldl g (s.returning r) = (ds.foldl g s).returning r := by
  induction ds generalizing s with
  | nil => rfl
  | cons d ds ih => rw [List.foldl_cons, List.foldl_cons, answer, ih]

/-- Where the operations `ops d` make the change `g` of each present drive `d`, those of several drives in order make the
changes in order. -/
theorem runAll_flatMap {ops : Nat → List Instr} {g : State → Nat → State}
    (each : ∀ s d, d < s.drives.length → runAll (ops d) s = .next ((g s d).returning .none))
    (count : ∀ s d, (g s d).drives.length = s.drives.length)
    (answer : ∀ s d r, g (s.returning r) d = (g s d).returning r) (ds : List Nat) (s : State)
    (present : ∀ d ∈ ds, d < s.drives.length) :
    ∃ r, runAll (ds.flatMap ops) s = .next ((ds.foldl g s).returning r) := by
  induction ds generalizing s with
  | nil => exact ⟨s.result, rfl⟩
  | cons d ds ih =>
    obtain ⟨here, present⟩ := List.forall_mem_cons.mp present
    obtain ⟨r, rest⟩ := ih ((g s d).returning .none) fun e he => by
      rw [State.returning_drives, count]; exact present e he
    refine ⟨r, ?_⟩
    rw [List.flatMap_cons, runAll_append (each s d here), rest, State.foldl_returning answer]
    rfl

/-- A first operation that changes one present drive. -/
theorem runAll_cons_of_update {i : Instr} {is : List Instr} {s : State} {d : Nat} {f : Drive → Drive}
    (present : d < s.drives.length)
    (meaning : exec i s = onDrive s d fun _ => .next ((s.updateDrive d f).returning .none)) :
    runAll (i :: is) s = runAll is ((s.updateDrive d f).returning .none) := by
  rw [runAll, meaning, onDrive_of_lt present]

/-- Giving a present drive its three lines is one push. -/
theorem runAll_lineSetters (l : Lines) (s : State) (d : Nat) (present : d < s.drives.length) :
    runAll [.drvSetAtnIn d l.atn, .drvSetClkIn d l.clk, .drvSetDataIn d l.data] s =
      .next ((s.updateDrive d (Drive.pushLines s.cfg l)).returning .none) := by
  have push : ((s.updateDrive d (Drive.setAtnIn s.cfg l.atn)).updateDrive d (Drive.setClkIn s.cfg l.clk)).updateDrive d
      (Drive.setDataIn s.cfg l.data) = s.updateDrive d (Drive.pushLines s.cfg l) := by
    rw [State.updateDrive_updateDrive, State.updateDrive_updateDrive]
    rfl
  rw [← push, runAll_cons_of_update present rfl, runAll_cons_of_update (by simpa using present) rfl,
    runAll_cons_of_update (by simpa using present) rfl]
  rfl

/-- Settles O30: the push of the lines is the setters of the attached drives in order, and a second push finds the same
lines and changes nothing. -/
theorem busUpdatePushesTheResolvedLinesOnce : Obligations.BusUpdatePushesTheResolvedLinesOnce := by
  unfold Obligations.BusUpdatePushesTheResolvedLinesOnce
  intro s present
  obtain ⟨r, run⟩ := runAll_flatMap (g := fun s d => s.updateDrive d (Drive.pushLines s.cfg _))
    (runAll_lineSetters s.resolve) (fun s d => s.updateDrive_length d _) (fun _ _ _ => rfl) s.bus.attached s present
  exact ⟨kindRequest_opsel .., _, _, run, rfl, rfl, execBusUpdate_again s⟩

theorem State.tickDrive_length (n : Nat) (s : State) (d : Nat) :
    (s.tickDrive n d).drives.length = s.drives.length := by
  unfold State.tickDrive
  split
  · rfl
  · exact s.updateDrive_length d _

/-- The answer has no part in a tick. -/
theorem State.tickDrive_returning (n : Nat) (s : State) (d : Nat) (r : Result) :
    State.tickDrive n (s.returning r) d = (s.tickDrive n d).returning r := by
  unfold State.tickDrive
  rw [State.returning_drives]
  split <;> rfl

theorem runAll_drvTick (n : Nat) (s : State) (d : Nat) (present : d < s.drives.length) :
    runAll [.drvTick d n] s = .next ((s.tickDrive n d).returning .none) := by
  have tick : exec (.drvTick d n) s = .next ((s.tickDrive n d).returning .none) := onDrive_of_lt present _
  rw [runAll, tick]
  rfl

/-- Settles O33: the ticks of the attached drives in order, whose last answer is that of BUS_TICK. -/
theorem busTickTicksEveryAttachedDriveInOrder : Obligations.BusTickTicksEveryAttachedDriveInOrder := by
  unfold Obligations.BusTickTicksEveryAttachedDriveInOrder
  intro s n present
  obtain ⟨r, run⟩ := runAll_flatMap (runAll_drvTick n) (State.tickDrive_length n) (State.tickDrive_returning n)
    s.bus.attached s present
  rw [← List.map_eq_flatMap] at run
  exact ⟨kindRequest_opsel .., _, run, rfl⟩

/-! ### A detached drive (R209, R369) -/

section Detached

variable {s : State} {d : Nat}

/-- What a drive that is not attached holds does not reach the lines. -/
theorem State.resolve_updateDrive_of_detached (detached : d ∉ s.bus.attached) (f : Drive → Drive) :
    (s.updateDrive d f).resolve = s.resolve := by
  have same : ∀ e ∈ s.bus.attached, (s.updateDrive d f).drives[e]? = s.drives[e]? := fun e he => by
    have ne : d ≠ e := fun h => detached (h ▸ he)
    rw [State.updateDrive_getElem?, if_neg ne, id_map]
  exact State.resolve_congr rfl rfl (fun e he => by rw [same e he]) (fun e he => by rw [same e he])

/-- A push does not reach a drive that is not attached. -/
theorem State.pushAll_getElem?_of_detached (detached : d ∉ s.bus.attached) (l : Lines) :
    (s.pushAll l).drives[d]? = s.drives[d]? := by
  rw [State.pushAll_getElem?, List.count_eq_zero.mpr detached, Function.iterate_zero, Option.map_id, id]

/-- A push gives a drive what it gives it whatever another drive holds. -/
theorem State.pushAll_updateDrive_getElem?_of_ne {e : Nat} (ne : e ≠ d) (f : Drive → Drive) (l : Lines) :
    ((s.updateDrive d f).pushAll l).drives[e]? = (s.pushAll l).drives[e]? := by
  rw [State.pushAll_getElem?, State.pushAll_getElem?, State.updateDrive_getElem?, if_neg ne.symm, id_map]
  rfl

end Detached

/-- Settles O32: after BUS_DETACH the drive is not attached, so neither the lines nor the push of them look at it. -/
theorem detachedDriveHasNoInfluenceOnTheBus : Obligations.DetachedDriveHasNoInfluenceOnTheBus := by
  unfold Obligations.DetachedDriveHasNoInfluenceOnTheBus
  intro s d y present
  let t : State := { s with bus := { s.bus with attached := s.bus.attached.filter (· != d) }, result := .none }
  have detached : d ∉ t.bus.attached := by simp [t]
  have lines : (t.updateDrive d fun _ => y).resolve = t.resolve := State.resolve_updateDrive_of_detached detached _
  have replaced : (t.updateDrive d fun _ => y).drives[d]? = some y := by
    have found : t.drives[d]? = some s.drives[d] := List.getElem?_eq_getElem present
    rw [State.updateDrive_getElem?, found, if_pos rfl]
    rfl
  refine ⟨t, t.resolve.clk, t.resolve.data, onDrive_of_lt present _, rfl, ?_, _, _, rfl, rfl, fun e ne => ?_, ?_, ?_⟩
  · rw [← lines]; rfl
  · rw [lines]
    exact State.pushAll_updateDrive_getElem?_of_ne ne _ _
  · exact (State.pushAll_getElem?_of_detached (s := t.updateDrive d fun _ => y) detached _).trans replaced
  · exact State.pushAll_getElem?_of_detached detached _

end Sys2Proof.Machine

/-! PROOFS. The family of spec/43_gcr_codec.md: the 40-bit field of a group as eight codes and as five bytes, the code
table and its reverse, what each codec operation answers, the round trips, and where a frame can hold a sync byte (R230
to R240). -/

namespace Sys2Proof.Machine

/-! ### The 40-bit field of a group (R105) -/

/-- The eight codes of a 40-bit field, first code most significant (R105). -/
def fieldCodes (field : BitVec 40) : List (BitVec 5) := (List.range 8).map fun k => field.extractLsb' (35 - 5 * k) 5

theorem fieldCodes_length (field : BitVec 40) : (fieldCodes field).length = 8 := rfl

theorem toNat_append_eq_add {m n : Nat} (x : BitVec m) (y : BitVec n) :
    (x ++ y).toNat = x.toNat * 2 ^ n + y.toNat := by
  rw [BitVec.toNat_append, ← Nat.shiftLeft_add_eq_or_of_lt y.isLt, Nat.shiftLeft_eq]

theorem codesNumber_fieldCodes (field : BitVec 40) : codesNumber (fieldCodes field) = field.toNat := by
  have bound := field.isLt
  simp only [codesNumber, fieldCodes, List.range, List.range.loop, List.map, List.foldl, BitVec.extractLsb'_toNat,
    Nat.shiftRight_eq_div_pow]
  omega

theorem bytesNumber_five (g0 g1 g2 g3 g4 : Byte) :
    bytesNumber [g0, g1, g2, g3, g4] = (g0 ++ g1 ++ g2 ++ g3 ++ g4 : BitVec 40).toNat := by
  simp only [bytesNumber, List.foldl, toNat_append_eq_add]
  omega

/-- Eight codes put together are a field of these codes. -/
theorem fieldCodes_append (c0 c1 c2 c3 c4 c5 c6 c7 : BitVec 5) :
    fieldCodes (c0 ++ c1 ++ c2 ++ c3 ++ c4 ++ c5 ++ c6 ++ c7) = [c0, c1, c2, c3, c4, c5, c6, c7] := by
  simp only [fieldCodes, List.range, List.range.loop, List.map, ← BitVec.toNat_inj, List.cons.injEq, and_true,
    BitVec.extractLsb'_toNat, toNat_append_eq_add, Nat.shiftRight_eq_div_pow]
  omega

/-- The five bytes of a field put together are the field. -/
theorem append_fieldBytes (field : BitVec 40) :
    (field.extractLsb' 32 8 ++ field.extractLsb' 24 8 ++ field.extractLsb' 16 8 ++ field.extractLsb' 8 8 ++
      field.extractLsb' 0 8 : BitVec 40) = field := by
  have bound := field.isLt
  apply BitVec.eq_of_toNat_eq
  simp only [toNat_append_eq_add, BitVec.extractLsb'_toNat, Nat.shiftRight_eq_div_pow]
  omega

/-! ### The nibbles of a byte string (R105) -/

theorem highNibble_toNat (b : Byte) : (b.extractLsb' 4 4).toNat = b.toNat / 16 := by
  have bound := b.isLt
  rw [BitVec.extractLsb'_toNat, Nat.shiftRight_eq_div_pow]
  omega

theorem lowNibble_toNat (b : Byte) : (b.extractLsb' 0 4).toNat = b.toNat % 16 := by
  rw [BitVec.extractLsb'_toNat, Nat.shiftRight_eq_div_pow]
  omega

/-- A byte made of two nibbles has these nibbles. -/
theorem nibblesOf_cons_append (h l : BitVec 4) (bs : List Byte) :
    nibblesOf ((h ++ l : Byte) :: bs) = h.toNat :: l.toNat :: nibblesOf bs := by
  have low := l.isLt
  have value : (h ++ l : Byte).toNat = h.toNat * 16 + l.toNat := toNat_append_eq_add h l
  simp only [nibblesOf, List.flatMap_cons, List.cons_append, List.nil_append, value, List.cons.injEq, and_true]
  omega

theorem lt_of_mem_nibblesOf {bs : List Byte} {n : Nat} (h : n ∈ nibblesOf bs) : n < 16 := by
  obtain ⟨b, -, hn⟩ := List.mem_flatMap.mp h
  have bound := b.isLt
  simp only [List.mem_cons, List.not_mem_nil, or_false] at hn
  omega

theorem nibblesOf_injective : Function.Injective nibblesOf := by
  intro bs
  induction bs with
  | nil =>
    intro cs h
    cases cs with
    | nil => rfl
    | cons c cs => cases h
  | cons b bs ih =>
    intro cs h
    cases cs with
    | nil => cases h
    | cons c cs =>
      simp only [nibblesOf, List.flatMap_cons, List.cons_append, List.nil_append, List.cons.injEq] at h
      obtain ⟨high, low, rest⟩ := h
      rw [ih rest, BitVec.eq_of_toNat_eq (show b.toNat = c.toNat by omega)]

/-! ### The code table and its reverse (R231) -/

/-- The nibble that a code is read as, 0 for an invalid code (R233). -/
def nibbleRead (table : List (BitVec 5)) (c : BitVec 5) : Nat := ((nibbleOf table c).getD 0).toNat

section Table

variable {table : List (BitVec 5)} {c : BitVec 5}

theorem nibbleOf_eq_none_iff : nibbleOf table c = none ↔ c ∉ table := by
  simp only [nibbleOf, Option.map_eq_none_iff, List.findIdx?_eq_none_iff, beq_eq_false_iff_ne]
  exact List.forall_mem_ne'

theorem nibbleRead_of_notMem (h : c ∉ table) : nibbleRead table c = 0 := by
  rw [nibbleRead, nibbleOf_eq_none_iff.mpr h]
  rfl

/-- A code of the table is read as its place in the table. -/
theorem nibbleRead_of_mem (length : table.length = 16) (h : c ∈ table) : nibbleRead table c = table.idxOf c := by
  have found : table.findIdx? (· == c) = some (table.idxOf c) :=
    List.findIdx?_eq_some_of_exists ⟨c, h, beq_self_eq_true c⟩
  have inside : table.idxOf c < 16 := length ▸ List.idxOf_lt_length_iff.mpr h
  rw [nibbleRead, nibbleOf, found, Option.map_some, Option.getD_some, BitVec.toNat_ofNat, Nat.mod_eq_of_lt inside]

theorem getD_mem {n : Nat} (h : n < table.length) : table.getD n 0 ∈ table := by
  rw [List.getD_eq_getElem _ _ h]
  exact List.getElem_mem h

/-- The code of a nibble is read as the nibble, for a table of sixteen distinct codes. -/
theorem nibbleRead_getD (length : table.length = 16) (nodup : table.Nodup) {n : Nat} (h : n < 16) :
    nibbleRead table (table.getD n 0) = n := by
  have inside : n < table.length := length ▸ h
  rw [nibbleRead_of_mem length (getD_mem inside), List.getD_eq_getElem _ _ inside, nodup.idxOf_getElem]

end Table

/-! ### A group, number by number (R232 to R234) -/

section Group

variable (table : List (BitVec 5))

theorem fieldCodes_groupField (b0 b1 b2 b3 : Byte) :
    fieldCodes (groupField table b0 b1 b2 b3) = (nibblesOf [b0, b1, b2, b3]).map fun n => table.getD n 0 := by
  rw [groupField, fieldCodes_append]
  simp only [codeOf, highNibble_toNat, lowNibble_toNat]
  rfl

theorem bytesNumber_encGroup (b0 b1 b2 b3 : Byte) :
    bytesNumber (encGroup table b0 b1 b2 b3) = (groupField table b0 b1 b2 b3).toNat := by
  rw [encGroup, bytesNumber_five, append_fieldBytes]

theorem nibblesOf_decGroup (g0 g1 g2 g3 g4 : Byte) :
    nibblesOf (decGroup table g0 g1 g2 g3 g4).1 = (fieldCodes (g0 ++ g1 ++ g2 ++ g3 ++ g4)).map (nibbleRead table) := by
  simp only [decGroup, nibblesOf_cons_append]
  rfl

theorem decGroup_err_iff (g0 g1 g2 g3 g4 : Byte) :
    (decGroup table g0 g1 g2 g3 g4).2 = true ↔ ∃ e ∈ fieldCodes (g0 ++ g1 ++ g2 ++ g3 ++ g4), e ∉ table := by
  have any : (decGroup table g0 g1 g2 g3 g4).2 =
      (fieldCodes (g0 ++ g1 ++ g2 ++ g3 ++ g4)).any fun e => (nibbleOf table e).isNone := by
    rw [fieldCodes, List.any_map]
    rfl
  simp only [any, List.any_eq_true, Option.isNone_iff_eq_none, nibbleOf_eq_none_iff]

variable {table}

/-- The decode of an encoded group is the group, without an invalid code (R234). -/
theorem exists_encGroup_decGroup (length : table.length = 16) (nodup : table.Nodup) (b0 b1 b2 b3 : Byte) :
    ∃ g0 g1 g2 g3 g4 : Byte, encGroup table b0 b1 b2 b3 = [g0, g1, g2, g3, g4] ∧
      decGroup table g0 g1 g2 g3 g4 = ([b0, b1, b2, b3], false) := by
  refine ⟨_, _, _, _, _, rfl, Prod.ext (nibblesOf_injective ?_) (Bool.eq_false_iff.mpr fun err => ?_)⟩
  · rw [nibblesOf_decGroup, append_fieldBytes, fieldCodes_groupField, List.map_map]
    exact (List.map_congr_left fun n hn => nibbleRead_getD length nodup (lt_of_mem_nibblesOf hn)).trans (List.map_id _)
  · rw [decGroup_err_iff, append_fieldBytes, fieldCodes_groupField] at err
    obtain ⟨e, mem, invalid⟩ := err
    obtain ⟨n, hn, rfl⟩ := List.mem_map.mp mem
    exact invalid (getD_mem (length ▸ lt_of_mem_nibblesOf hn))

theorem encGroup_injective (length : table.length = 16) (nodup : table.Nodup) {a0 a1 a2 a3 b0 b1 b2 b3 : Byte}
    (same : encGroup table a0 a1 a2 a3 = encGroup table b0 b1 b2 b3) : [a0, a1, a2, a3] = [b0, b1, b2, b3] := by
  obtain ⟨g0, g1, g2, g3, g4, code, decode⟩ := exists_encGroup_decGroup length nodup a0 a1 a2 a3
  obtain ⟨h0, h1, h2, h3, h4, code', decode'⟩ := exists_encGroup_decGroup length nodup b0 b1 b2 b3
  rw [code, code'] at same
  cases same
  rw [decode] at decode'
  exact congrArg Prod.fst decode'

/-- The decode of an encoded record of `m` groups is the record, without an invalid code (R230, R234). -/
theorem decBytes_encBytes (length : table.length = 16) (nodup : table.Nodup) (m : Nat) (bs : List Byte)
    (h : bs.length = 4 * m) : decBytes table (encBytes table bs) = (bs, 0) := by
  induction m generalizing bs with
  | zero =>
    obtain rfl : bs = [] := by simpa using h
    rfl
  | succ m ih =>
    obtain ⟨b0, b1, b2, b3, rest, rfl, hr⟩ := exists_four h
    obtain ⟨g0, g1, g2, g3, g4, code, decode⟩ := exists_encGroup_decGroup length nodup b0 b1 b2 b3
    simp only [encBytes, code, List.cons_append, List.nil_append, decBytes_cons, decode, ih rest hr]
    rfl

end Group

/-! ### Answers of the codec operations -/

@[simp] theorem State.emit_nil (s : State) : s.emit [] = s := by
  rw [State.emit, List.append_nil]

theorem diagEvents_toNat (err : Bool) : diagEvents err.toNat = if err then [.gcrDiag] else [] := by
  cases err <;> rfl

/-- Two answers that are the same hold the same bytes. -/
theorem bytes_of_answer_eq {s : State} {bs cs : List Byte}
    (same : (.next (s.returning (.bytes bs)) : Host.Outcome State Fault Refusal) = .next (s.returning (.bytes cs))) :
    bs = cs := Result.bytes.inj (congrArg State.result (Host.Outcome.next.inj same))

theorem exec_gcrEncGroup (b0 b1 b2 b3 : Byte) (s : State) :
    exec (.gcrEncGroup b0 b1 b2 b3) s = .next (s.returning (.bytes (encGroup s.cfg.gcrTable b0 b1 b2 b3))) := rfl

theorem exec_gcrDecGroup (g0 g1 g2 g3 g4 : Byte) (s : State) :
    exec (.gcrDecGroup g0 g1 g2 g3 g4) s =
      .next ((s.emit (diagEvents (decGroup s.cfg.gcrTable g0 g1 g2 g3 g4).2.toNat)).returning
        (.group (decGroup s.cfg.gcrTable g0 g1 g2 g3 g4).1 (decGroup s.cfg.gcrTable g0 g1 g2 g3 g4).2)) := rfl

theorem exec_gcrEncHeader (t n id1 id2 : Byte) (s : State) :
    exec (.gcrEncHeader t n id1 id2) s = .next (s.returning (.bytes (encHeader s.cfg t n id1 id2))) := rfl

theorem exec_gcrDecHeader {frame : List Byte} (h : frame.length = 10) (s : State) :
    exec (.gcrDecHeader frame) s = .next ((s.emit (diagEvents (decBytes s.cfg.gcrTable frame).2)).returning
      (headerResult s.cfg (decBytes s.cfg.gcrTable frame).1 ((decBytes s.cfg.gcrTable frame).2 != 0))) := if_pos h

theorem exec_gcrEncData {payload : List Byte} (h : payload.length = 256) (s : State) :
    exec (.gcrEncData payload) s = .next (s.returning (.bytes (encData s.cfg payload))) := if_pos h

theorem exec_gcrDecData {frame : List Byte} (h : frame.length = 325) (s : State) :
    exec (.gcrDecData frame) s = .next ((s.emit (diagEvents (decBytes s.cfg.gcrTable frame).2)).returning
      (dataResult s.cfg (decBytes s.cfg.gcrTable frame).1 ((decBytes s.cfg.gcrTable frame).2 != 0))) := if_pos h

/-! ### Round trips of groups and frames (R234, R240) -/

/-- The record of a header reads as a valid header. -/
theorem headerResult_headerRecord (cfg : Config) (t n id1 id2 : Byte) :
    headerResult cfg (headerRecord cfg t n id1 id2) false = .header t n id1 id2 true false := by
  have checksum : t ^^^ n ^^^ id1 ^^^ id2 = n ^^^ t ^^^ id2 ^^^ id1 := by ac_rfl
  simp [headerResult, headerRecord, recordByte, checksum]

/-- The record of a payload reads as the payload, valid. -/
theorem dataResult_dataRecord (cfg : Config) {payload : List Byte} (h : payload.length = 256) :
    dataResult cfg (dataRecord cfg payload) false = .data payload true false := by
  have content : ((dataRecord cfg payload).drop 1).take 256 = payload := by
    rw [dataRecord, List.drop_succ_cons, List.drop_zero, ← h, List.take_left]
  have checksum : recordByte (dataRecord cfg payload) 257 = xorBytes payload := by
    simp [recordByte, dataRecord, h]
  simp only [dataResult, content, checksum, beq_self_eq_true, Bool.and_true]
  simp [recordByte, dataRecord]

/-- A code of the table has no three consecutive zero bits (R231). -/
theorem not_threeZeros {e : BitVec 5} (h : noThreeZeros e) {i : Nat} (hi : i < 3) :
    ¬ (e.getLsbD i = false ∧ e.getLsbD (i + 1) = false ∧ e.getLsbD (i + 2) = false) := by
  rintro ⟨z0, z1, z2⟩
  simpa [z0, z1, z2] using h i (List.mem_range.mpr hi)

/-- Settles O38: the decode of every encoded group is the group, so the decode of a frame is its record, of which the
fields, the marker and the checksum are those that the encoder put there. -/
theorem decodeOfEncodedGroupsAndFramesGivesThemBack :
    Obligations.DecodeOfEncodedGroupsAndFramesGivesThemBack := by
  unfold Obligations.DecodeOfEncodedGroupsAndFramesGivesThemBack
  intro s ok
  refine ⟨fun e he i hi => not_threeZeros (ok.tableRuns e he) hi, fun b0 b1 b2 b3 => ?_, fun t n id1 id2 => ?_,
    fun payload h => ?_⟩
  · obtain ⟨g0, g1, g2, g3, g4, code, decode⟩ := exists_encGroup_decGroup ok.tableLength ok.tableNodup b0 b1 b2 b3
    exact ⟨g0, g1, g2, g3, g4, by rw [exec_gcrEncGroup, code],
      by simp [exec_gcrDecGroup, decode, diagEvents]⟩
  · have decode : decBytes s.cfg.gcrTable (encHeader s.cfg t n id1 id2) = (headerRecord s.cfg t n id1 id2, 0) :=
      decBytes_encBytes ok.tableLength ok.tableNodup 2 _ rfl
    refine ⟨_, exec_gcrEncHeader t n id1 id2 s, ?_⟩
    simp [exec_gcrDecHeader (encHeader_length s.cfg t n id1 id2), decode, diagEvents, headerResult_headerRecord]
  · have decode : decBytes s.cfg.gcrTable (encData s.cfg payload) = (dataRecord s.cfg payload, 0) :=
      decBytes_encBytes ok.tableLength ok.tableNodup 65 _ (by simp [dataRecord, h])
    refine ⟨_, exec_gcrEncData h s, ?_⟩
    simp [exec_gcrDecData (encData_length s.cfg payload h), decode, diagEvents, dataResult_dataRecord s.cfg h]

/-! ### Groups (R232, R233) -/

/-- Settles O34: the bytes and the codes spell the same field, and the decode undoes the encode. -/
theorem encodedGroupSpellsTheCodesOfItsNibbles : Obligations.EncodedGroupSpellsTheCodesOfItsNibbles := by
  unfold Obligations.EncodedGroupSpellsTheCodesOfItsNibbles
  intro s b0 b1 b2 b3
  refine ⟨kindRequest_opsel .., _, exec_gcrEncGroup b0 b1 b2 b3 s, encGroup_length .., ?_, ?_⟩
  · rw [bytesNumber_encGroup, ← codesNumber_fieldCodes, fieldCodes_groupField]
  · intro length nodup a0 a1 a2 a3 same
    exact encGroup_injective length nodup (bytes_of_answer_eq same)

/-- Settles O35: the codes are those of the 40-bit field, and each is read as its place in the table, or as 0. -/
theorem decodedGroupInvertsTheTableAndFlagsInvalidCodes :
    Obligations.DecodedGroupInvertsTheTableAndFlagsInvalidCodes := by
  unfold Obligations.DecodedGroupInvertsTheTableAndFlagsInvalidCodes
  intro s g0 g1 g2 g3 g4 length _
  refine ⟨kindRequest_opsel .., (decGroup s.cfg.gcrTable g0 g1 g2 g3 g4).1, _,
    fieldCodes (g0 ++ g1 ++ g2 ++ g3 ++ g4), ?_, decGroup_length ..,
    fieldCodes_length _, ?_, decGroup_err_iff .., fun k _ e n code nibble => ?_⟩
  · rw [exec_gcrDecGroup, diagEvents_toNat]
  · rw [codesNumber_fieldCodes, bytesNumber_five]
  · rw [nibblesOf_decGroup, List.getElem?_map, code] at nibble
    obtain rfl : nibbleRead s.cfg.gcrTable e = n := Option.some.inj nibble
    exact ⟨fun h => by rw [nibbleRead_of_mem length h, List.getElem?_idxOf h], nibbleRead_of_notMem⟩

/-! ### Frames (R235 to R238) -/

/-- Settles O36: a frame is its record coded group by group. -/
theorem encodedFramesAreTheirRecordsInGroups : Obligations.EncodedFramesAreTheirRecordsInGroups := by
  unfold Obligations.EncodedFramesAreTheirRecordsInGroups
  refine fun s => ⟨fun t n id1 id2 => ⟨kindRequest_opsel .., _, _, rfl, rfl, rfl, rfl⟩, fun payload h => ?_⟩
  refine ⟨kindRequest_opsel .., _, exec_gcrEncData h s, encData_length s.cfg payload h, ?_⟩
  intro k hk r0 r1 r2 r3 group
  have record : [s.cfg.dataMarker] ++ payload ++ [payload.foldl (· ^^^ ·) 0, 0, 0] = dataRecord s.cfg payload := by
    rw [dataRecord, xorBytes_eq_foldl]; rfl
  rw [record] at group
  rw [exec_gcrEncGroup, encData, encBytes_extract _ 65 _ (by simp [dataRecord, h]) k hk r0 r1 r2 r3 group]

/-- The error flag of the `k`-th group of a frame. -/
def groupErr (table : List (BitVec 5)) (frame : List Byte) (k : Nat) : Bool :=
  (decBytes table (frame.extract (5 * k) (5 * k + 5))).2 != 0

theorem groupErr_eq {table : List (BitVec 5)} {frame : List Byte} {k : Nat} {g0 g1 g2 g3 g4 : Byte}
    (group : frame.extract (5 * k) (5 * k + 5) = [g0, g1, g2, g3, g4]) :
    groupErr table frame k = (decGroup table g0 g1 g2 g3 g4).2 := by
  rw [groupErr, group, decBytes_cons]
  cases (decGroup table g0 g1 g2 g3 g4).2 <;> rfl

/-- A decode of `m` groups reports an error exactly when some group has one. -/
theorem decBytes_err_iff (table : List (BitVec 5)) (m : Nat) (frame : List Byte) (h : frame.length = 5 * m) :
    ((decBytes table frame).2 != 0) = true ↔ ∃ k, k < m ∧ groupErr table frame k = true := by
  rw [bne_iff_ne, Ne, decBytes_errors table m frame h]
  constructor
  · intro failed
    push Not at failed
    obtain ⟨k, hk, g0, g1, g2, g3, g4, group, err⟩ := failed
    exact ⟨k, hk, by rw [groupErr_eq group]; simpa using err⟩
  · rintro ⟨k, hk, err⟩ clean
    have size : (frame.extract (5 * k) (5 * k + 5)).length = 5 * (0 + 1) := by
      rw [List.extract_eq_take_drop, List.length_take, List.length_drop]; omega
    obtain ⟨g0, g1, g2, g3, g4, rest, group, hr⟩ := exists_five size
    obtain rfl : rest = [] := by simpa using hr
    rw [groupErr_eq group, clean k hk g0 g1 g2 g3 g4 group] at err
    cases err

theorem recordByte_beq {record : List Byte} {k : Nat} (h : k < record.length) (v : Byte) :
    (recordByte record k == v) = decide (record[k]? = some v) := by
  rw [recordByte, List.getD_eq_getElem _ _ h, List.getElem?_eq_getElem h]
  simp [beq_eq_decide]

theorem errCount_ne_zero (e1 e2 : Bool) : (e1.toNat + e2.toNat != 0) = (e1 || e2) := by
  cases e1 <;> cases e2 <;> rfl

theorem errCount_eq_zero_iff (e1 e2 : Bool) : e1.toNat + e2.toNat = 0 ↔ (e1 || e2) = false := by
  rw [← errCount_ne_zero, bne_eq_false_iff_eq]

/-- Settles O37: the decode of a frame is the decode of its groups, and its validity looks at the record alone. -/
theorem decodedFramesReportValidityBesideTheirFields :
    Obligations.DecodedFramesReportValidityBesideTheirFields := by
  unfold Obligations.DecodedFramesReportValidityBesideTheirFields
  refine fun s => ⟨fun g0 g1 g2 g3 g4 g5 g6 g7 g8 g9 => ?_, fun frame h => ?_⟩
  · obtain ⟨r0, r1, r2, r3, first⟩ : ∃ r0 r1 r2 r3, (decGroup s.cfg.gcrTable g0 g1 g2 g3 g4).1 = [r0, r1, r2, r3] :=
      ⟨_, _, _, _, rfl⟩
    obtain ⟨r4, r5, r6, r7, second⟩ : ∃ r4 r5 r6 r7, (decGroup s.cfg.gcrTable g5 g6 g7 g8 g9).1 = [r4, r5, r6, r7] :=
      ⟨_, _, _, _, rfl⟩
    refine ⟨kindRequest_opsel .., r0, r1, r2, r3, r4, r5, r6, r7, _, _, _, _, _,
      first ▸ exec_gcrDecGroup g0 g1 g2 g3 g4 s, second ▸ exec_gcrDecGroup g5 g6 g7 g8 g9 s, ?_,
      errCount_eq_zero_iff _ _⟩
    rw [exec_gcrDecHeader rfl, decBytes_cons, decBytes_cons, first, second, ← errCount_ne_zero, headerResult,
      Bool.decide_and]
    rfl
  · have size : (decBytes s.cfg.gcrTable frame).1.length = 260 := decBytes_length _ 65 _ h
    refine ⟨kindRequest_opsel .., (decBytes s.cfg.gcrTable frame).1, groupErr s.cfg.gcrTable frame,
      (decBytes s.cfg.gcrTable frame).2 != 0, (decBytes s.cfg.gcrTable frame).2, size, ?_,
      decBytes_err_iff _ 65 _ h, by simp, ?_⟩
    · intro k hk g0 g1 g2 g3 g4 group
      rw [groupErr_eq group, decBytes_extract _ 65 _ h k hk g0 g1 g2 g3 g4 group]
      exact ⟨_, exec_gcrDecGroup g0 g1 g2 g3 g4 s⟩
    · rw [exec_gcrDecData h, dataResult, recordByte_beq (by omega), recordByte_beq (by omega), ← Bool.decide_and,
        xorBytes_eq_foldl]
      rfl

/-! ### Where a frame can hold a sync byte (R239) -/

section Sync

variable {table : List (BitVec 5)}

/-- A code inside a sync byte is the code of five ones. -/
theorem extractLsb'_of_sync {field : BitVec 40} {a i : Nat} (sync : field.extractLsb' a 8 = 0xFF#8) (hi : i ≤ 3) :
    field.extractLsb' (a + i) 5 = 0x1F#5 := by
  have inner : field.extractLsb' (a + i) 5 = (field.extractLsb' a 8).extractLsb' i 5 := by
    ext j hj
    have inside : i + j < 8 := by omega
    simp [inside, Nat.add_assoc]
  rw [inner, sync]
  interval_cases i <;> rfl

theorem getD_ne_ones (unused : 0x1F#5 ∉ table) (n : Nat) : table.getD n 0 ≠ 0x1F#5 := by
  rcases Nat.lt_or_ge n table.length with inside | outside
  · exact fun h => unused (h ▸ getD_mem inside)
  · rw [List.getD_eq_default _ _ outside]
    decide

/-- Every byte of a group but the third holds a whole code, so that only the third can be a sync byte when no code
is five ones. -/
theorem encGroup_sync (unused : 0x1F#5 ∉ table) {b0 b1 b2 b3 : Byte} {k : Nat}
    (sync : (encGroup table b0 b1 b2 b3)[k]? = some 0xFF#8) : k = 2 := by
  have free : 0x1F#5 ∉ fieldCodes (groupField table b0 b1 b2 b3) := by
    rw [fieldCodes_groupField]
    intro mem
    obtain ⟨n, -, code⟩ := List.mem_map.mp mem
    exact getD_ne_ones unused n code
  have noSync {a i j : Nat} (hj : j < 8) (place : a + i = 35 - 5 * j) (hi : i ≤ 3) :
      (groupField table b0 b1 b2 b3).extractLsb' a 8 ≠ 0xFF#8 := fun h =>
    free (List.mem_map.mpr ⟨j, List.mem_range.mpr hj, place ▸ extractLsb'_of_sync h hi⟩)
  match k, sync with
  | 0, sync => exact absurd (Option.some.inj sync) (noSync (i := 3) (j := 0) (by decide) rfl (by decide))
  | 1, sync => exact absurd (Option.some.inj sync) (noSync (i := 1) (j := 2) (by decide) rfl (by decide))
  | 2, _ => rfl
  | 3, sync => exact absurd (Option.some.inj sync) (noSync (i := 2) (j := 5) (by decide) rfl (by decide))
  | 4, sync => exact absurd (Option.some.inj sync) (noSync (i := 0) (j := 7) (by decide) rfl (by decide))

/-- A coded record holds sync bytes only at the third place of its groups. -/
theorem encBytes_sync (unused : 0x1F#5 ∉ table) (bs : List Byte) {k : Nat}
    (sync : (encBytes table bs)[k]? = some 0xFF#8) : k % 5 = 2 := by
  induction bs using encBytes.induct generalizing k with
  | case1 b0 b1 b2 b3 rest ih =>
    rw [encBytes] at sync
    rcases Nat.lt_or_ge k 5 with front | behind
    · rw [List.getElem?_append_left front] at sync
      rw [encGroup_sync unused sync]
    · rw [List.getElem?_append_right behind, encGroup_length] at sync
      have := ih sync
      omega
  | case2 bs short =>
    rw [encBytes] at sync
    · cases sync
    · exact short

end Sync

/-- Settles O39: a frame holds sync bytes only at the third place of a group, so never twice in a row. -/
theorem encodedFramesHoldNoSyncMark : Obligations.EncodedFramesHoldNoSyncMark := by
  unfold Obligations.EncodedFramesHoldNoSyncMark
  rintro s i frame k table operation answer ⟨first, second⟩
  have coded : ∃ bs, frame = encBytes s.cfg.gcrTable bs := by
    rcases operation with ⟨t, n, id1, id2, rfl⟩ | ⟨payload, rfl⟩
    · exact ⟨_, (bytes_of_answer_eq answer).symm⟩
    · have length : payload.length = 256 := by
        by_contra other
        cases (if_neg other).symm.trans answer
      rw [exec_gcrEncData length] at answer
      exact ⟨_, (bytes_of_answer_eq answer).symm⟩
  obtain ⟨bs, rfl⟩ := coded
  have unused : 0x1F#5 ∉ s.cfg.gcrTable := by rw [table]; decide
  have := encBytes_sync unused bs first
  have := encBytes_sync unused bs second
  omega

end Sys2Proof.Machine

/-! PROOFS. The family of spec/44_gcr_track_sync.md: the track accesses, the layout of sector spans and of built tracks,
the sync detector over runs of sync bytes, and a drive tick split in two (R261 to R274, R302). -/

namespace Sys2Proof.Machine

-- As in the part on spec/41_pic_timers_lines.md: the proofs of this part take no thread each.
set_option Elab.async false

/-! ### A track operation on a buffer that is there (R261 to R266) -/

section TrackOperations

variable {s : State} {d t : Nat} {x : Drive} {b : Track}

theorem State.setTrack_eq (drive : s.drives[d]? = some x) (t : Nat) (b : Track) :
    s.setTrack d t b = s.updateDrive d fun _ => { x with tracks := x.tracks.set (t - 1) b } :=
  State.updateDrive_congr drive rfl

variable (drive : s.drives[d]? = some x) (range : trackInRange s.cfg t) (disk : x.diskPresent = true)
  (found : x.tracks[t - 1]? = some b)

include drive range disk found

theorem exec_trkReadByte : exec (.trkReadByte d t) s =
    .next ((s.updateDrive d fun _ => { x with tracks := x.tracks.set (t - 1) b.advance }).returning
      (.byte b.here)) := by
  rw [← State.setTrack_eq drive]
  exact onTrack_of_some drive range disk found _

theorem exec_trkWriteByte (v : Byte) : exec (.trkWriteByte d t v) s =
    .next ((s.updateDrive d fun _ => { x with tracks := x.tracks.set (t - 1) (b.writeByte v) }).returning .none) := by
  rw [← State.setTrack_eq drive]
  exact onTrack_of_some drive range disk found _

theorem exec_trkIsSync : exec (.trkIsSync d t) s = .next (s.returning (.level b.isSync)) :=
  onTrack_of_some drive range disk found _

theorem exec_trkBuild {image : Image} (total : Image.wellFormed image = true) (id1 id2 : Byte) :
    exec (.trkBuild d t image id1 id2) s = .next (((s.updateDrive d fun _ =>
      { x with tracks := x.tracks.set (t - 1) (buildTrack s.cfg t image id1 id2) }).emit
        (buildEvents s.cfg t image id1 id2)).returning .none) := by
  rw [← State.setTrack_eq drive]
  exact (onTrack_of_some drive range disk found _).trans (if_pos total)

theorem exec_trkUpdateSector {image : Image} (total : Image.wellFormed image = true) {n : Nat}
    (sector : n < sectorsOf s.cfg t) (id1 id2 : Byte) :
    exec (.trkUpdateSector d t image n id1 id2) s = .next ((s.updateDrive d fun _ =>
      { x with tracks := x.tracks.set (t - 1) (b.updateSector s.cfg t n image id1 id2) }).returning .none) := by
  rw [← State.setTrack_eq drive]
  exact (onTrack_of_some drive range disk found _).trans ((if_pos sector).trans (if_pos total))

end TrackOperations

/-! ### The byte at the cursor (R261 to R263) -/

theorem Track.here_eq {b : Track} {v : Byte} (h : b.buf[b.cursor]? = some v) : b.here = v := by
  rw [Track.here, List.getD_eq_getElem?_getD, h, Option.getD_some]

theorem Track.writeByte_eq (v : Byte) (b : Track) :
    b.writeByte v = ⟨b.buf.set b.cursor v, (b.cursor + 1) % b.buf.length⟩ := by
  rw [Track.writeByte, Track.advance, Track.size, List.length_set]

/-- Settles O40: the cursor of the model moves modulo the size, which is one on, or 0 after the last byte. -/
theorem trackAccessesUseTheCursorAndWrap : Obligations.TrackAccessesUseTheCursorAndWrap := by
  unfold Obligations.TrackAccessesUseTheCursorAndWrap
  intro s d t x b v w drive disk first last found byte
  have range : trackInRange s.cfg t := ⟨first, last⟩
  have inside : b.cursor < b.buf.length := (List.getElem?_eq_some_iff.mp byte).1
  have here : b.here = w := Track.here_eq byte
  refine ⟨kindRequest_opsel .., kindRequest_opsel .., kindRequest_opsel .., (b.cursor + 1) % b.buf.length,
    fun atEnd => ?_, fun notAtEnd => Nat.mod_eq_of_lt (by omega), ?_, ?_, ?_⟩
  · rw [atEnd, Nat.mod_self]
  · rw [exec_trkReadByte drive range disk found, here]; rfl
  · rw [exec_trkWriteByte drive range disk found, Track.writeByte_eq]
  · rw [exec_trkIsSync drive range disk found, Track.isSync, here, beq_eq_decide]; rfl

/-! ### Pieces of a list laid out one after the other -/

theorem extract_append_middle {α : Type} {front middle : List α} {off len : Nat} (hf : front.length = off)
    (hm : middle.length = len) (back : List α) : (front ++ (middle ++ back)).extract off (off + len) = middle := by
  subst hf hm
  simp [List.extract_eq_take_drop]

/-- The pieces of `0 .. m-1` are those before `n`, that of `n` and some rest. -/
theorem exists_flatMap_range {α : Type} (f : Nat → List α) {n m : Nat} (h : n < m) :
    ∃ back, (List.range m).flatMap f = (List.range n).flatMap f ++ (f n ++ back) := by
  obtain ⟨k, rfl⟩ := Nat.exists_eq_add_of_lt h
  rw [Nat.add_right_comm, List.range_add, List.range_succ, List.flatMap_append, List.flatMap_append,
    List.flatMap_singleton, List.append_assoc]
  exact ⟨_, rfl⟩

/-! ### The span of a sector (R267) -/

/-- Settles O41: the span is this layout by definition, and the run lengths of R7 add up. -/
theorem sectorSpanIsLaidOutAsSyncHeaderGapSyncDataGap :
    Obligations.SectorSpanIsLaidOutAsSyncHeaderGapSyncDataGap := by
  unfold Obligations.SectorSpanIsLaidOutAsSyncHeaderGapSyncDataGap
  intro s t n image id1 id2 total
  exact ⟨_, _, exec_gcrEncHeader _ _ id1 id2 s, exec_gcrEncData (Image.bytesAt_length total t n) s, rfl,
    fun ok => sectorSpan_length ok total t n id1 id2⟩

/-! ### A built track (R264) -/

section Build

variable {cfg : Config} {t : Nat} {image : Image} {id1 id2 : Byte}

theorem buildTrack_buf_of_le (fits : (trackSpans cfg t image id1 id2).length ≤ trackSizeOf cfg t) :
    (buildTrack cfg t image id1 id2).buf = trackSpans cfg t image id1 id2 ++
      List.replicate (trackSizeOf cfg t - (trackSpans cfg t image id1 id2).length) cfg.gapByte := by
  refine List.take_of_length_le ?_
  rw [List.length_append, List.length_replicate]
  omega

theorem buildTrack_buf_of_lt (cut : trackSizeOf cfg t < (trackSpans cfg t image id1 id2).length) :
    (buildTrack cfg t image id1 id2).buf = (trackSpans cfg t image id1 id2).take (trackSizeOf cfg t) :=
  List.take_append_of_le_length cut.le

theorem buildTrack_buf_length (cfg : Config) (t : Nat) (image : Image) (id1 id2 : Byte) :
    (buildTrack cfg t image id1 id2).buf.length = trackSizeOf cfg t := by
  rcases Nat.lt_or_ge (trackSizeOf cfg t) (trackSpans cfg t image id1 id2).length with cut | fits
  · rw [buildTrack_buf_of_lt cut, List.length_take, Nat.min_eq_left cut.le]
  · rw [buildTrack_buf_of_le fits, List.length_append, List.length_replicate, Nat.add_sub_of_le fits]

/-- With admissible parameters the spans of a track fit in its buffer. -/
theorem trackSpans_length_le (ok : ConfigOk cfg) (range : trackInRange cfg t) (total : Image.wellFormed image = true) :
    (trackSpans cfg t image id1 id2).length ≤ trackSizeOf cfg t := by
  rw [trackSpans_length ok total]
  exact trackSpans_fit ok range

/-- The span of sector `n` begins at byte `372 * n` of a built track. -/
theorem exists_buildTrack_span (ok : ConfigOk cfg) (range : trackInRange cfg t) (total : Image.wellFormed image = true)
    {n : Nat} (sector : n < sectorsOf cfg t) : ∃ front back, front.length = 372 * n ∧
      (buildTrack cfg t image id1 id2).buf = front ++ (sectorSpan cfg t n image id1 id2 ++ back) := by
  obtain ⟨back, spans⟩ := exists_flatMap_range (fun n => sectorSpan cfg t n image id1 id2) sector
  refine ⟨(List.range n).flatMap fun n => sectorSpan cfg t n image id1 id2,
    back ++ List.replicate (trackSizeOf cfg t - (trackSpans cfg t image id1 id2).length) cfg.gapByte, ?_, ?_⟩
  · simp [List.length_flatMap, sectorSpan_length ok total, Nat.mul_comm]
  · rw [buildTrack_buf_of_le (trackSpans_length_le ok range total)]
    exact (congrArg (· ++ _) spans).trans (by rw [List.append_assoc, List.append_assoc])

/-- Where the header frame of a sector stands in a built track (R267). -/
theorem buildTrack_extract_header (ok : ConfigOk cfg) (range : trackInRange cfg t)
    (total : Image.wellFormed image = true) {n : Nat} (sector : n < sectorsOf cfg t) :
    (buildTrack cfg t image id1 id2).buf.extract (372 * n + cfg.syncLen) (372 * n + cfg.syncLen + 10) =
      encHeader cfg (byteOf t) (byteOf n) id1 id2 := by
  obtain ⟨front, back, off, buf⟩ := exists_buildTrack_span (id1 := id1) (id2 := id2) ok range total sector
  rw [buf, sectorSpan, List.append_assoc, List.append_assoc, List.append_assoc, List.append_assoc, List.append_assoc,
    ← List.append_assoc front]
  exact extract_append_middle (by rw [List.length_append, off, List.length_replicate]) (encHeader_length ..) _

/-- Where the data frame of a sector stands in a built track (R267). -/
theorem buildTrack_extract_data (ok : ConfigOk cfg) (range : trackInRange cfg t)
    (total : Image.wellFormed image = true) {n : Nat} (sector : n < sectorsOf cfg t) :
    (buildTrack cfg t image id1 id2).buf.extract (372 * n + 2 * cfg.syncLen + 10 + cfg.headerGapLen)
      (372 * n + 2 * cfg.syncLen + 10 + cfg.headerGapLen + 325) = encData cfg (Image.bytesAt image t n) := by
  obtain ⟨front, back, off, buf⟩ := exists_buildTrack_span (id1 := id1) (id2 := id2) ok range total sector
  rw [buf, sectorSpan, List.append_assoc, List.append_assoc, ← List.append_assoc front]
  refine extract_append_middle ?_ (encData_length _ _ (Image.bytesAt_length total t n)) _
  simp only [List.length_append, List.length_replicate, off, encHeader_length]
  omega

end Build

/-- Settles O42: the spans are shorter than the buffer and padded, or longer and cut, and shorter where R7 holds. -/
theorem trackBuildLaysOutItsSectorsAndPads : Obligations.TrackBuildLaysOutItsSectorsAndPads := by
  unfold Obligations.TrackBuildLaysOutItsSectorsAndPads
  intro s d t x b image id1 id2 drive disk first last found total
  have range : trackInRange s.cfg t := ⟨first, last⟩
  refine ⟨kindRequest_opsel .., trackSpans s.cfg t image id1 id2, _, _, rfl, ?_,
    exec_trkBuild drive range disk found total id1 id2⟩
  exact ⟨buildTrack_buf_length s.cfg t image id1 id2,
    fun fits => ⟨buildTrack_buf_of_le fits, if_neg (Nat.not_lt.mpr fits)⟩,
    fun cut => ⟨buildTrack_buf_of_lt cut, if_pos cut⟩, fun ok => trackSpans_length_le ok range total⟩

/-! ### A built track read back (R268) -/

section ReadBack

variable {s : State} {cfg : Config} (same : s.cfg = cfg) (ok : ConfigOk cfg)

include same ok

theorem exec_gcrDecHeader_encHeader (t n id1 id2 : Byte) :
    exec (.gcrDecHeader (encHeader cfg t n id1 id2)) s = .next (s.returning (.header t n id1 id2 true false)) := by
  subst same
  obtain ⟨-, -, headers, -⟩ := decodeOfEncodedGroupsAndFramesGivesThemBack s ok
  obtain ⟨frame, code, decode⟩ := headers t n id1 id2
  obtain rfl : encHeader s.cfg t n id1 id2 = frame := bytes_of_answer_eq ((exec_gcrEncHeader ..).symm.trans code)
  exact decode

theorem exec_gcrDecData_encData {payload : List Byte} (length : payload.length = 256) :
    exec (.gcrDecData (encData cfg payload)) s = .next (s.returning (.data payload true false)) := by
  subst same
  obtain ⟨-, -, -, blocks⟩ := decodeOfEncodedGroupsAndFramesGivesThemBack s ok
  obtain ⟨frame, code, decode⟩ := blocks payload length
  obtain rfl : encData s.cfg payload = frame := bytes_of_answer_eq ((exec_gcrEncData length s).symm.trans code)
  exact decode

end ReadBack

/-- Settles O44: each frame stands in the built track where the layout puts it, and the codec reads it back. -/
theorem builtTrackDecodesBackToTheImage : Obligations.BuiltTrackDecodesBackToTheImage := by
  unfold Obligations.BuiltTrackDecodesBackToTheImage
  intro s d t n x b image id1 id2 ok drive disk first last found total sector
  have range : trackInRange s.cfg t := ⟨first, last⟩
  have inside : t - 1 < x.tracks.length := (List.getElem?_eq_some_iff.mp found).1
  refine ⟨_, { x with tracks := x.tracks.set (t - 1) (buildTrack s.cfg t image id1 id2) }, _,
    exec_trkBuild drive range disk found total id1 id2, ?_, List.getElem?_set_self inside, ?_, ?_⟩
  · rw [State.returning_drives, State.emit_drives, State.updateDrive_getElem?, if_pos rfl, drive]
    rfl
  · simp only [buildTrack_extract_header ok range total sector]
    exact exec_gcrDecHeader_encHeader (by rfl) ok _ _ _ _
  · simp only [buildTrack_extract_data ok range total sector]
    exact exec_gcrDecData_encData (by rfl) ok (Image.bytesAt_length total t n)

/-! ### A sector rewritten in place (R266) -/

/-- A list with a stretch replaced by a list of the same length, where the stretch lies inside. -/
theorem splice_getElem? {α : Type} {buf span : List α} {off : Nat} (inside : off + span.length ≤ buf.length) (k : Nat) :
    (buf.take off ++ (span ++ buf.drop (off + span.length)))[k]? =
      if off ≤ k ∧ k < off + span.length then span[k - off]? else buf[k]? := by
  have front : (buf.take off).length = off := List.length_take_of_le (by omega)
  rcases Nat.lt_or_ge k off with before | behind
  · rw [List.getElem?_append_left (by omega), List.getElem?_take_of_lt before, if_neg (by omega)]
  · rw [List.getElem?_append_right (by omega), front]
    rcases Nat.lt_or_ge k (off + span.length) with within | past
    · rw [List.getElem?_append_left (by omega), if_pos ⟨behind, within⟩]
    · rw [List.getElem?_append_right (by omega), List.getElem?_drop, if_neg (by omega)]
      congr 1
      omega

section Update

variable {cfg : Config} {t n : Nat} {image : Image} {b : Track}

/-- The span of a sector of the track lies inside a buffer of the track's size. -/
theorem span_inside (ok : ConfigOk cfg) (range : trackInRange cfg t) (size : b.buf.length = trackSizeOf cfg t)
    (sector : n < sectorsOf cfg t) : n * 372 + 372 ≤ b.buf.length := by
  have fit := trackSpans_fit ok range
  omega

/-- The bytes of a buffer after an update that fits in it. -/
theorem Track.updateSector_getElem? (ok : ConfigOk cfg) (total : Image.wellFormed image = true) (id1 id2 : Byte)
    (inside : n * 372 + 372 ≤ b.buf.length) (k : Nat) :
    (b.updateSector cfg t n image id1 id2).buf[k]? =
      if n * 372 ≤ k ∧ k < n * 372 + 372 then (sectorSpan cfg t n image id1 id2)[k - n * 372]? else b.buf[k]? := by
  have span : (sectorSpan cfg t n image id1 id2).length = 372 := sectorSpan_length ok total t n id1 id2
  have uncut : (b.updateSector cfg t n image id1 id2).buf = b.buf.take (n * 372) ++
      (sectorSpan cfg t n image id1 id2 ++ b.buf.drop (n * 372 + (sectorSpan cfg t n image id1 id2).length)) := by
    rw [← List.append_assoc]
    refine List.take_of_length_le ?_
    simp only [List.length_append, List.length_take, List.length_drop, Track.size, sectorStride, span]
    omega
  rw [uncut, splice_getElem? (by omega), span]

end Update

/-- Settles O43: with admissible parameters the whole span lies inside the buffer, so that nothing of it is cut. -/
theorem sectorUpdateRewritesItsSpanInPlace : Obligations.SectorUpdateRewritesItsSpanInPlace := by
  unfold Obligations.SectorUpdateRewritesItsSpanInPlace
  intro s d t n x b image id1 id2 ok drive disk first last found size sector total
  have range : trackInRange s.cfg t := ⟨first, last⟩
  have bytes := Track.updateSector_getElem? (t := t) ok total id1 id2 (span_inside ok range size sector)
  refine ⟨kindRequest_opsel .., (b.updateSector s.cfg t n image id1 id2).buf,
    (b.updateSector_size s.cfg t n image id1 id2).1, fun k within => ?_, fun k outside => ?_,
    exec_trkUpdateSector drive range disk found total sector id1 id2⟩
  · rw [bytes, if_pos (by omega), Nat.add_sub_cancel_left]
  · rw [bytes, if_neg (by omega)]

/-! ### A consumed byte (R271, R272) -/

/-- A consumed byte lies in a run of sync bytes (R271): it is one, and the drive was in sync or the next is one too. -/
def Drive.inRun (x : Drive) (b : Track) : Bool := decide (b.here = syncByte) && (x.inSync || b.advance.isSync)

theorem Drive.inRun_of_ne {x : Drive} {b : Track} (data : b.here ≠ syncByte) : x.inRun b = false := by
  rw [Drive.inRun, decide_eq_false data, Bool.false_and]

theorem Drive.inRun_of_sync {x : Drive} {b : Track} (sync : b.here = syncByte) :
    x.inRun b = (x.inSync || b.advance.isSync) := by
  rw [Drive.inRun, decide_eq_true sync, Bool.true_and]

/-- The detector in one equation: the sync mode follows the run, and outside a run the byte is signalled. -/
theorem Drive.detect_eq (v : Byte) (ahead : Bool) (x : Drive) :
    x.detect v ahead =
      if decide (v = syncByte) && (x.inSync || ahead) then ({ x with inSync := true }, false)
      else (({ x with inSync := false } : Drive).signal, true) := by
  have kept (m : Bool) (mode : x.inSync = m) : ({ x with inSync := m } : Drive) = x := by subst mode; rfl
  by_cases sync : v = syncByte
  · rw [Drive.detect, if_pos sync, decide_eq_true sync, Bool.true_and]
    cases mode : x.inSync with
    | true => rw [kept true mode]; rfl
    | false => rw [kept false mode]; cases ahead <;> rfl
  · rw [Drive.detect, if_neg sync, decide_eq_false sync]
    rfl

section Byte

variable {x y : Drive} {t : Nat} {b : Track} {signalled : Bool} (cfg : Config)

theorem Drive.consumeByte_of_none (missing : x.tracks[t - 1]? = none) : x.consumeByte cfg t = (x, false) := by
  have read : x.track? t = none := missing
  rw [Drive.consumeByte, read]

theorem Drive.consumeByte_of_detect (found : x.tracks[t - 1]? = some b)
    (decided : ((x.setTrack t b.advance).showByte b.here).detect b.here b.advance.isSync = (y, signalled)) :
    x.consumeByte cfg t = (y.showSync cfg, signalled) := by
  have read : x.track? t = some b := found
  rw [Drive.consumeByte, read]
  exact congrArg (fun z : Drive × Bool => (z.1.showSync cfg, z.2)) decided

/-- A consumed byte in one equation: it is shown, the sync mode follows the run, and outside a run it is signalled. -/
theorem Drive.consumeByte_eq (found : x.tracks[t - 1]? = some b) :
    x.consumeByte cfg t =
      if x.inRun b then ((x.byteShown t b true).showSync cfg, false)
      else ((x.byteShown t b false).signal.showSync cfg, true) := by
  cases run : x.inRun b with
  | true => exact Drive.consumeByte_of_detect cfg found ((Drive.detect_eq ..).trans (if_pos run))
  | false =>
    exact Drive.consumeByte_of_detect cfg found ((Drive.detect_eq ..).trans (if_neg (Bool.eq_false_iff.mp run)))

end Byte

/-- A flag set under a condition. -/
theorem Pic.setFlag_flagSetWhen_ite (p : Pic) (k : Nat) {test on : Prop} [Decidable test] (h : test ↔ on) :
    flagSetWhen on k p.ifr (if test then (p.setFlag k).ifr else p.ifr) := by
  by_cases holds : test
  · rw [if_pos holds]
    exact p.setFlag_flagSetWhen k (b := true) (iff_of_true rfl (h.mp holds))
  · rw [if_neg holds]
    exact p.setFlag_flagSetWhen k (b := false) (iff_of_false nofun (mt h.mpr holds))

/-- Settles O45: in a run PIC2 takes the byte and the sync bit only; outside one the signal follows. -/
theorem consumedByteIsSignalledUnlessInASyncRun : Obligations.ConsumedByteIsSignalledUnlessInASyncRun := by
  unfold Obligations.ConsumedByteIsSignalledUnlessInASyncRun
  intro cfg t x b v w found byte next
  obtain rfl : b.here = v := Track.here_eq byte
  have ahead : b.advance.isSync = decide (w = 0xFF#8) := by
    rw [Track.isSync, Track.here_eq (b := b.advance) next, beq_eq_decide]; rfl
  have run : x.inRun b = decide (b.here = 0xFF#8 ∧ (x.inSync = true ∨ w = 0xFF#8)) := by
    rw [Drive.inRun, ahead, Bool.decide_and, Bool.decide_or, Bool.decide_eq_true]
    rfl
  rw [Drive.consumeByte_eq cfg found, ← run]
  have pins (m : Bool) : ∀ k, k < 8 →
      (setBit x.pic2.inb cfg.mSync (!m)).getLsbD k = if k = cfg.mSync then !m else x.pic2.inb.getLsbD k :=
    fun k hk => setBit_bit _ _ _ _ hk
  cases x.inRun b with
  | true =>
    refine ⟨true, false, x.pic2.ifr, x.pic2.ila, _, rfl, rfl,
      x.pic2.setFlag_flagSetWhen 1 (b := false) (iff_of_false nofun nofun), nofun, fun _ => rfl, pins true, ?_⟩
    rw [Bool.or_false]
    rfl
  | false =>
    refine ⟨false, true, _,
      if (x.pic2.pcr.getLsbD 0 = true ∨ x.pic2.ca1Prev = true) ∧ x.pic2.acr.getLsbD 0 = true then b.here
      else x.pic2.ila,
      _, rfl, rfl, x.pic2.setFlag_flagSetWhen_ite flagCa1 ⟨fun edge => ⟨rfl, edge⟩, fun ⟨_, edge⟩ => edge⟩,
      fun ⟨_, latching, edge⟩ => if_pos ⟨edge, latching⟩,
      fun kept => if_neg fun ⟨edge, latching⟩ => kept ⟨rfl, latching, edge⟩, pins false, ?_⟩
    rw [Bool.or_true, if_neg Bool.false_ne_true, Drive.signal_eq]
    rfl

/-! ### Runs of sync bytes (R274) -/

/-- The byte `i` places after the cursor, round the end of the buffer. -/
def Track.ahead (b : Track) (i : Nat) : Option Byte := b.buf[(b.cursor + i) % b.buf.length]?

theorem Track.advance_ahead (b : Track) (i : Nat) : b.advance.ahead i = b.ahead (i + 1) := by
  rw [Track.ahead, Track.advance, Track.size, Nat.mod_add_mod, Nat.add_assoc, Nat.add_comm 1 i]
  rfl

/-- Drive `x` has its head over buffer `b` of track `t`, the cursor inside, in sync mode `m`. -/
structure HeadOver (t : Nat) (b : Track) (m : Bool) (x : Drive) : Prop where
  found : x.tracks[t - 1]? = some b
  inside : b.cursor < b.buf.length
  mode : x.inSync = m

section Runs

variable {cfg : Config} {t : Nat} {b : Track} {m : Bool} {x : Drive} {v : Byte}

theorem Track.here_of_ahead (inside : b.cursor < b.buf.length) (byte : b.ahead 0 = some v) : b.here = v := by
  rw [Track.ahead, Nat.add_zero, Nat.mod_eq_of_lt inside] at byte
  exact Track.here_eq byte

theorem Track.advance_inside (inside : b.cursor < b.buf.length) : b.advance.cursor < b.advance.buf.length :=
  Nat.mod_lt _ (Nat.zero_lt_of_lt inside)

theorem Track.advance_isSync (inside : b.cursor < b.buf.length) (byte : b.ahead 1 = some v) :
    b.advance.isSync = (v == syncByte) := by
  rw [Track.isSync, Track.here_of_ahead (Track.advance_inside inside) ((b.advance_ahead 0).trans byte)]

/-- A byte consumed in a run puts the drive in sync and gives no signal; any other is signalled. -/
theorem HeadOver.consumeByte (h : HeadOver t b m x) :
    HeadOver t b.advance (x.inRun b) (x.consumeByte cfg t).1 ∧ (x.consumeByte cfg t).2 = !x.inRun b := by
  have present : t - 1 < x.tracks.length := (List.getElem?_eq_some_iff.mp h.found).1
  have moved : (x.tracks.set (t - 1) b.advance)[t - 1]? = some b.advance := List.getElem?_set_self present
  rw [Drive.consumeByte_eq cfg h.found]
  cases x.inRun b with
  | true => exact ⟨⟨moved, Track.advance_inside h.inside, rfl⟩, rfl⟩
  | false => exact ⟨⟨moved, Track.advance_inside h.inside, rfl⟩, rfl⟩

/-- A byte that is no sync byte is signalled and ends the run. -/
theorem HeadOver.consumeByte_data (h : HeadOver t b m x) (byte : b.ahead 0 = some v) (data : v ≠ syncByte) :
    HeadOver t b.advance false (x.consumeByte cfg t).1 ∧ (x.consumeByte cfg t).2 = true := by
  have outside : x.inRun b = false := Drive.inRun_of_ne (by rwa [Track.here_of_ahead h.inside byte])
  simpa only [outside, Bool.not_false] using h.consumeByte (cfg := cfg)

/-- A sync byte lies in a run when the drive is in sync or another one follows. -/
theorem HeadOver.consumeByte_sync (h : HeadOver t b m x) (byte : b.ahead 0 = some syncByte)
    (next : b.ahead 1 = some v) :
    HeadOver t b.advance (m || v == syncByte) (x.consumeByte cfg t).1 ∧
      (x.consumeByte cfg t).2 = !(m || v == syncByte) := by
  have run : x.inRun b = (m || v == syncByte) := by
    rw [Drive.inRun_of_sync (Track.here_of_ahead h.inside byte), h.mode, Track.advance_isSync h.inside next]
  simpa only [run] using h.consumeByte (cfg := cfg)

/-- In sync, sync bytes are suppressed up to the next byte that is none, which is signalled. -/
theorem HeadOver.consumeMany_inSync {k : Nat} (h : HeadOver t b true x) (run : ∀ i, i < k → b.ahead i = some syncByte)
    (byte : b.ahead k = some v) (data : v ≠ syncByte) :
    (consumeMany cfg t (k + 1) x).2 = List.replicate k false ++ [true] ∧
      (consumeMany cfg t (k + 1) x).1.inSync = false := by
  induction k generalizing b x with
  | zero =>
    obtain ⟨after, signal⟩ := h.consumeByte_data (cfg := cfg) byte data
    exact ⟨congrArg (fun signalled => [signalled]) signal, after.mode⟩
  | succ k ih =>
    obtain ⟨w, next⟩ : ∃ w, b.ahead 1 = some w := by
      cases k with
      | zero => exact ⟨v, byte⟩
      | succ k => exact ⟨syncByte, run 1 (by omega)⟩
    obtain ⟨after, signal⟩ := h.consumeByte_sync (cfg := cfg) (run 0 (by omega)) next
    obtain ⟨signals, mode⟩ := ih after (fun i hi => (b.advance_ahead i).trans (run (i + 1) (by omega)))
      ((b.advance_ahead k).trans byte)
    exact ⟨congrArg₂ List.cons signal signals, mode⟩

end Runs

/-- Settles O46: a lone byte is signalled, and the first of two sync bytes opens a run, which the byte after it ends. -/
theorem onlyRunsOfTwoOrMoreSyncBytesAreSuppressed : Obligations.OnlyRunsOfTwoOrMoreSyncBytesAreSuppressed := by
  unfold Obligations.OnlyRunsOfTwoOrMoreSyncBytesAreSuppressed
  intro cfg t k x b v found outside inside run byte data
  have start : HeadOver t b false x := ⟨found, inside, outside⟩
  match k, run, byte with
  | 0, _, byte =>
    obtain ⟨after, signal⟩ := start.consumeByte_data (cfg := cfg) byte data
    exact ⟨congrArg (fun signalled => [signalled]) signal, after.mode⟩
  | 1, run, byte =>
    obtain ⟨isolated, first⟩ := start.consumeByte_sync (cfg := cfg) (run 0 Nat.one_pos) byte
    obtain ⟨after, second⟩ := isolated.consumeByte_data (cfg := cfg) ((b.advance_ahead 0).trans byte) data
    have other : (v == syncByte) = false := beq_eq_false_iff_ne.mpr data
    rw [Bool.false_or, other] at first
    exact ⟨congrArg₂ (fun a b => [a, b]) first second, after.mode⟩
  | k + 2, run, byte =>
    obtain ⟨opened, first⟩ := start.consumeByte_sync (cfg := cfg) (run 0 (by omega)) (run 1 (by omega))
    obtain ⟨signals, mode⟩ := opened.consumeMany_inSync (cfg := cfg) (k := k + 1)
      (fun i hi => (b.advance_ahead i).trans (run (i + 1) (by omega))) ((b.advance_ahead (k + 1)).trans byte) data
    rw [if_neg (by omega)]
    exact ⟨congrArg₂ List.cons first signals, mode⟩

/-! ### A drive tick split in two (R170, R270, R302) -/

/-- `n` cycles of both chips of a drive (R302). -/
def Drive.timers (cfg : Config) (n : Nat) (x : Drive) : Drive :=
  { x with pic1 := x.pic1.ticks cfg n, pic2 := x.pic2.ticks cfg n }

section Split

variable {cfg : Config}

theorem Drive.ticks_eq (n : Nat) (x : Drive) : x.ticks cfg n = (x.timers cfg n).rotate cfg n := rfl

theorem Drive.timers_add (a b : Nat) (x : Drive) : (x.timers cfg a).timers cfg b = x.timers cfg (a + b) := by
  simp only [Drive.timers, Pic.ticks_add]

theorem Pic.ticks_ina (v : Byte) (n : Nat) (p : Pic) :
    ({ p with ina := v } : Pic).ticks cfg n = { p.ticks cfg n with ina := v } :=
  calc ({ p with ina := v } : Pic).ticks cfg n
    _ = { p.ticks cfg n with ina := v, inb := p.inb } := Pic.ticks_pins cfg v p.inb n p
    _ = { p.ticks cfg n with ina := v, inb := (p.ticks cfg n).inb } := by rw [(p.ticks_inputs cfg n).2]

theorem Pic.ticks_inb (v : Byte) (n : Nat) (p : Pic) :
    ({ p with inb := v } : Pic).ticks cfg n = { p.ticks cfg n with inb := v } :=
  calc ({ p with inb := v } : Pic).ticks cfg n
    _ = { p.ticks cfg n with ina := p.ina, inb := v } := Pic.ticks_pins cfg p.ina v n p
    _ = { p.ticks cfg n with ina := (p.ticks cfg n).ina, inb := v } := by rw [(p.ticks_inputs cfg n).1]

theorem Drive.signal_timers (n : Nat) (x : Drive) : (x.timers cfg n).signal = x.signal.timers cfg n := by
  simp only [Drive.signal, Drive.timers, Pic.ticks_setCa1]

theorem Drive.byteShown_timers (t n : Nat) (b : Track) (m : Bool) (x : Drive) :
    (x.timers cfg n).byteShown t b m = (x.byteShown t b m).timers cfg n := by
  simp only [Drive.byteShown, Drive.showByte, Drive.setTrack, Drive.timers, Pic.ticks_ina]

theorem Drive.showSync_timers (n : Nat) (x : Drive) :
    (x.timers cfg n).showSync cfg = (x.showSync cfg).timers cfg n := by
  simp only [Drive.showSync, Drive.timers, Pic.ticks_inb, (x.pic2.ticks_inputs cfg n).2]

/-- Cycles and a consumed byte in either order: a byte changes port inputs and reports on CA1, which the cycles do not
look at. -/
theorem Drive.consumeByte_timers (t n : Nat) (x : Drive) :
    (x.timers cfg n).consumeByte cfg t = ((x.consumeByte cfg t).1.timers cfg n, (x.consumeByte cfg t).2) := by
  cases found : x.tracks[t - 1]? with
  | none => rw [Drive.consumeByte_of_none cfg found, Drive.consumeByte_of_none cfg (x := x.timers cfg n) found]
  | some b =>
    have run : (x.timers cfg n).inRun b = x.inRun b := rfl
    rw [Drive.consumeByte_eq cfg found, Drive.consumeByte_eq cfg (x := x.timers cfg n) found, run]
    cases x.inRun b with
    | true => rw [if_pos rfl, if_pos rfl, Drive.byteShown_timers, Drive.showSync_timers]
    | false =>
      rw [if_neg Bool.false_ne_true, if_neg Bool.false_ne_true, Drive.byteShown_timers, Drive.signal_timers,
        Drive.showSync_timers]

theorem consumeMany_timers (t n k : Nat) (x : Drive) :
    consumeMany cfg t k (x.timers cfg n) = ((consumeMany cfg t k x).1.timers cfg n, (consumeMany cfg t k x).2) := by
  induction k generalizing x with
  | zero => rfl
  | succ k ih => simp only [consumeMany, Drive.consumeByte_timers, ih]

/-- Consumed bytes leave what decides whether and how fast the disk turns. -/
theorem consumeMany_keeps (t k : Nat) (x : Drive) :
    headTrack (consumeMany cfg t k x).1 = headTrack x ∧ (consumeMany cfg t k x).1.rotates cfg = x.rotates cfg := by
  induction k generalizing x with
  | zero => exact ⟨rfl, rfl⟩
  | succ k ih =>
    obtain ⟨inSync, pic2, headByte, tracks, form⟩ := Drive.consumeByte_form cfg t x
    obtain ⟨head, rotates⟩ := ih (x.consumeByte cfg t).1
    exact ⟨head.trans (by rw [form]; rfl), rotates.trans (by rw [form]; rfl)⟩

/-- `n` cycles of a disk that turns over track `t` (R270): a byte for every whole cost in the accumulator, which keeps the
remainder. -/
def Drive.turn (cfg : Config) (t cost n : Nat) (x : Drive) : Drive × Nat :=
  let consumed := consumeMany cfg t ((x.rotAcc + n) / cost) x
  ({ consumed.1 with rotAcc := (x.rotAcc + n) % cost }, consumed.2.count true)

theorem Drive.rotate_eq_turn {n : Nat} {x : Drive} (pos : 0 < n) (cost : 0 < costOf cfg (headTrack x)) :
    x.rotate cfg n = if x.rotates cfg then x.turn cfg (headTrack x) (costOf cfg (headTrack x)) n else (x, 0) :=
  x.rotate_pos cfg n pos cost

theorem Drive.turn_keeps (t cost n : Nat) (x : Drive) :
    headTrack (x.turn cfg t cost n).1 = headTrack x ∧ (x.turn cfg t cost n).1.rotates cfg = x.rotates cfg :=
  consumeMany_keeps t ((x.rotAcc + n) / cost) x

/-- The whole costs in two parts of a sum, the remainder of the first carried into the second. -/
theorem div_add_div_of_carry (m n : Nat) {c : Nat} (pos : 0 < c) : m / c + (m % c + n) / c = (m + n) / c := by
  have parts : m + n = m % c + n + c * (m / c) := by
    have := Nat.mod_add_div m c
    omega
  rw [parts, Nat.add_mul_div_left _ _ pos, Nat.add_comm]

/-- Turning for `a` cycles and then for `b`: the remainder of the first is kept for the second. -/
theorem Drive.turn_add (t a b : Nat) {cost : Nat} (pos : 0 < cost) (x : Drive) :
    x.turn cfg t cost (a + b) =
      (((x.turn cfg t cost a).1.turn cfg t cost b).1,
        (x.turn cfg t cost a).2 + ((x.turn cfg t cost a).1.turn cfg t cost b).2) := by
  have bytes : (x.rotAcc + (a + b)) / cost =
      (x.rotAcc + a) / cost + ((x.rotAcc + a) % cost + b) / cost := by
    rw [div_add_div_of_carry _ _ pos, Nat.add_assoc]
  have rest : (x.rotAcc + (a + b)) % cost = ((x.rotAcc + a) % cost + b) % cost := by
    rw [Nat.mod_add_mod, Nat.add_assoc]
  simp only [Drive.turn, bytes, rest, consumeMany_add, consumeMany_rotAcc, List.count_append]

theorem Drive.rotate_timers (m n : Nat) (x : Drive) (cost : 0 < costOf cfg (headTrack x)) :
    (x.timers cfg n).rotate cfg m = ((x.rotate cfg m).1.timers cfg n, (x.rotate cfg m).2) := by
  rcases Nat.eq_zero_or_pos m with rfl | pos
  · rfl
  · rw [Drive.rotate_eq_turn pos cost, Drive.rotate_eq_turn (x := x.timers cfg n) pos cost]
    have same : (x.timers cfg n).rotates cfg = x.rotates cfg := rfl
    rw [same]
    cases x.rotates cfg with
    | true => exact congrArg (fun c : Drive × List Bool =>
        (({ c.1 with rotAcc := _ } : Drive), c.2.count true)) (consumeMany_timers ..)
    | false => rfl

theorem Drive.rotate_add (a b : Nat) (x : Drive) (cost : 0 < costOf cfg (headTrack x)) :
    x.rotate cfg (a + b) =
      (((x.rotate cfg a).1.rotate cfg b).1, (x.rotate cfg a).2 + ((x.rotate cfg a).1.rotate cfg b).2) := by
  rcases Nat.eq_zero_or_pos a with rfl | ha
  · rw [Nat.zero_add, Drive.rotate_zero, Nat.zero_add]
  rcases Nat.eq_zero_or_pos b with rfl | hb
  · rfl
  rw [Drive.rotate_eq_turn (Nat.add_pos_left ha b) cost, Drive.rotate_eq_turn ha cost]
  cases turns : x.rotates cfg with
  | false =>
    have still : x.rotate cfg b = (x, 0) := by rw [Drive.rotate_eq_turn hb cost, turns]; rfl
    simp only [Bool.false_eq_true, if_false, still]
  | true =>
    obtain ⟨head, rotates⟩ := x.turn_keeps (cfg := cfg) (headTrack x) (costOf cfg (headTrack x)) a
    rw [if_pos rfl, if_pos rfl, Drive.rotate_eq_turn hb (by rwa [head]), head, rotates, turns, if_pos rfl]
    exact x.turn_add (headTrack x) a b cost

/-- A drive tick of `a` cycles and then of `b` is one of `a + b`, and the signals add up. -/
theorem Drive.ticks_add (a b : Nat) (x : Drive) (cost : 0 < costOf cfg (headTrack x)) :
    x.ticks cfg (a + b) =
      (((x.ticks cfg a).1.ticks cfg b).1, (x.ticks cfg a).2 + ((x.ticks cfg a).1.ticks cfg b).2) := by
  have second : (x.ticks cfg a).1.ticks cfg b = (((x.timers cfg (a + b)).rotate cfg a).1).rotate cfg b := by
    rw [Drive.ticks_eq, Drive.ticks_eq, ← Drive.timers_add, Drive.rotate_timers a b (x.timers cfg a) cost]
  have first : (x.ticks cfg a).2 = ((x.timers cfg (a + b)).rotate cfg a).2 := by
    rw [Drive.ticks_eq, ← Drive.timers_add, Drive.rotate_timers a b (x.timers cfg a) cost]
  rw [second, first]
  exact (x.timers cfg (a + b)).rotate_add a b cost

end Split

/-! ### Two ticks of a drive in the block -/

section BlockTicks

variable {s : State} {d : Nat} {x : Drive}

theorem State.tickDrive_of_some (drive : s.drives[d]? = some x) (n : Nat) :
    s.tickDrive n d =
      (s.updateDrive d fun _ => (x.ticks s.cfg n).1).emit (overflowEvents d (x.ticks s.cfg n).2) := by
  rw [State.tickDrive, drive]

theorem State.tickDrive_drive (drive : s.drives[d]? = some x) (n : Nat) :
    (s.tickDrive n d).drives[d]? = some (x.ticks s.cfg n).1 := by
  rw [State.tickDrive_of_some drive, State.emit_drives, State.updateDrive_getElem?, if_pos rfl, drive]
  rfl

theorem overflowEvents_add (d m n : Nat) : overflowEvents d (m + n) = overflowEvents d m ++ overflowEvents d n :=
  List.replicate_add ..

/-- Two changes of a drive, each with its events, are one change with the events in order. -/
theorem State.updateDrive_emit_updateDrive_emit (s : State) (d : Nat) (f g : Drive → Drive) (es es' : List Event) :
    (((s.updateDrive d f).emit es).updateDrive d g).emit es' = (s.updateDrive d (g ∘ f)).emit (es ++ es') := by
  rw [← State.updateDrive_updateDrive]
  simp only [State.emit, State.updateDrive, List.append_assoc]

theorem State.tickDrive_add (drive : s.drives[d]? = some x) (cost : 0 < costOf s.cfg (headTrack x)) (a b : Nat) :
    (s.tickDrive a d).tickDrive b d = s.tickDrive (a + b) d := by
  have cfg : (s.tickDrive a d).cfg = s.cfg := by rw [State.tickDrive_of_some drive]; rfl
  rw [State.tickDrive_of_some (State.tickDrive_drive drive a), cfg, State.tickDrive_of_some drive a,
    State.updateDrive_emit_updateDrive_emit, State.tickDrive_of_some drive (a + b), x.ticks_add a b cost,
    overflowEvents_add]
  rfl

theorem exec_drvTick_of_some (drive : s.drives[d]? = some x) (n : Nat) :
    exec (.drvTick d n) s = .next ((s.tickDrive n d).returning .none) := onDrive_of_some drive _

end BlockTicks

/-- Settles O48: the cycles of the chips and the consumed bytes of two ticks are sorted into those of one. -/
theorem driveTicksAddUp : Obligations.DriveTicksAddUp := by
  unfold Obligations.DriveTicksAddUp
  intro s d a b x drive cost
  have between : ((s.tickDrive a d).returning .none).drives[d]? = some (x.ticks s.cfg a).1 :=
    State.tickDrive_drive drive a
  refine ⟨_, _, exec_drvTick_of_some drive a, exec_drvTick_of_some between b, ?_⟩
  rw [State.tickDrive_returning, State.tickDrive_add drive cost]
  exact exec_drvTick_of_some drive (a + b)

end Sys2Proof.Machine

/-! PROOFS. The family of spec/45_drive_mechanics_map.md: the drive tick (R302), the mechanics and what reaches them
(R290, R291, R303), the address map (R300, R301) and the disk (R295, R296). -/

namespace Sys2Proof.Machine

-- As in the part on spec/41_pic_timers_lines.md: the proofs of this part take no thread each.
set_option Elab.async false

/-! ### A drive that is there -/

section Present

variable {s : State} {d : Nat} {x : Drive}

/-- An update of drive `d` stores what it makes of the drive that is there. -/
theorem State.updateDrive_of_some (drive : s.drives[d]? = some x) (f : Drive → Drive) :
    s.updateDrive d f = s.updateDrive d fun _ => f x := State.updateDrive_congr drive rfl

theorem State.setChip_pic1_of_some (drive : s.drives[d]? = some x) (p : Pic) :
    s.setChip (.pic1 d) p = s.updateDrive d fun _ => { x with pic1 := p } := State.updateDrive_of_some drive _

theorem State.setChip_pic2_of_some (drive : s.drives[d]? = some x) (p : Pic) :
    s.setChip (.pic2 d) p = s.updateDrive d fun _ => { x with pic2 := p } := State.updateDrive_of_some drive _

theorem State.chipAt_pic1_of_some (drive : s.drives[d]? = some x) : s.chipAt (.pic1 d) = some x.pic1 := by
  rw [State.chipAt, drive, Option.map_some]

theorem State.chipAt_pic2_of_some (drive : s.drives[d]? = some x) : s.chipAt (.pic2 d) = some x.pic2 := by
  rw [State.chipAt, drive, Option.map_some]

end Present

/-! ### The drive tick (R270, R302) -/

section Tick

variable {cfg : Config} {s : State} {d : Nat} {x : Drive}

/-- The cycles of both chips, each as the single cycle repeated. -/
theorem Drive.timers_eq_iterate (cfg : Config) (n : Nat) (x : Drive) :
    x.timers cfg n = { x with
      pic1 := (fun q : Pic => (q.t1Cycle cfg).t2Cycle)^[n] x.pic1
      pic2 := (fun q : Pic => (q.t1Cycle cfg).t2Cycle)^[n] x.pic2 } := by
  rw [Drive.timers, Pic.ticks_eq_iterate, Pic.ticks_eq_iterate]

/-- The disk stands still without a disk, and with the motor off where it gates the rotation. -/
theorem Drive.rotates_eq_false_iff (cfg : Config) (x : Drive) :
    x.rotates cfg = false ↔ x.diskPresent = false ∨ (cfg.motorGatesRotation = true ∧ x.motor = false) := by
  rw [Drive.rotates, Bool.and_eq_false_iff, Bool.or_eq_false_iff, Bool.not_eq_false']

theorem Drive.rotate_of_still (n : Nat) (still : x.rotates cfg = false) : x.rotate cfg n = (x, 0) := by
  rw [Drive.rotate, still]
  split <;> rfl

/-- The per-byte cost of the track under the head, read from the parameters' tables. -/
theorem costOf_headTrack (cfg : Config) (x : Drive) :
    costOf cfg (headTrack x) = cfg.byteCycles.getD (cfg.zones.getD (x.ht / 2) 0) 0 := by
  rw [costOf, zoneOf, headTrack, Nat.add_sub_cancel_left]

/-- Turning, with the remainder put into the accumulator before the bytes are consumed: no byte looks at it. -/
theorem Drive.turn_eq (cfg : Config) (t cost n : Nat) (x : Drive) :
    x.turn cfg t cost n =
      ((consumeMany cfg t ((x.rotAcc + n) / cost) { x with rotAcc := (x.rotAcc + n) % cost }).1,
        (consumeMany cfg t ((x.rotAcc + n) / cost) { x with rotAcc := (x.rotAcc + n) % cost }).2.count true) := by
  rw [consumeMany_rotAcc, Drive.turn]

/-- A tick of a drive in the block, from what it makes of the drive. -/
theorem exec_drvTick_eq (drive : s.drives[d]? = some x) {n k : Nat} {y : Drive} (ticks : x.ticks s.cfg n = (y, k)) :
    exec (.drvTick d n) s =
      .next (((s.updateDrive d fun _ => y).emit (List.replicate k (.setOverflow d))).returning .none) := by
  rw [exec_drvTick_of_some drive, State.tickDrive_of_some drive, ticks, overflowEvents]

/-- A tick without a signal emits nothing. -/
theorem exec_drvTick_eq_of_silent (drive : s.drives[d]? = some x) {n : Nat} {y : Drive}
    (ticks : x.ticks s.cfg n = (y, 0)) :
    exec (.drvTick d n) s = .next ((s.updateDrive d fun _ => y).returning .none) := by
  rw [exec_drvTick_eq drive ticks, List.replicate_zero, State.emit, List.append_nil]

end Tick

/-- Settles O47: the cycles of both chips, and then nothing or the turning of the disk. -/
theorem driveTickRunsTimersThenRotation : Obligations.DriveTickRunsTimersThenRotation := by
  unfold Obligations.DriveTickRunsTimersThenRotation
  intro s d n x y drive after
  rw [← Drive.timers_eq_iterate] at after
  subst after
  refine ⟨kindRequest_opsel .., ?_, fun still => ?_, fun pos disk motor cost table costPos => ?_⟩
  · rintro rfl
    rw [exec_drvTick_eq_of_silent drive (Drive.ticks_zero ..), State.updateDrive_eq_self drive rfl]
  · exact exec_drvTick_eq_of_silent drive
      (Drive.rotate_of_still (x := x.timers s.cfg n) n ((x.rotates_eq_false_iff s.cfg).mpr still))
  · rw [← costOf_headTrack] at table
    subst table
    have turns : (x.timers s.cfg n).rotates s.cfg = true := by
      rw [← Bool.not_eq_false, Drive.rotates_eq_false_iff]
      rintro (absent | ⟨gates, off⟩)
      · exact Bool.false_ne_true (absent.symm.trans disk)
      · exact Bool.false_ne_true (off.symm.trans (motor gates))
    refine ⟨_, _, rfl, exec_drvTick_eq drive ?_⟩
    rw [Drive.ticks_eq, Drive.rotate_eq_turn (x := x.timers s.cfg n) pos costPos, if_pos turns, Drive.turn_eq]
    rfl

/-! ### MECH_WRITE (R290, R291) -/

section MechWrite

variable {s : State} {d : Nat} {x : Drive} {v : Byte}

/-- A port value that the mechanics see a second time changes nothing: the phase no longer differs. -/
theorem Drive.mechWrite_mechWrite (cfg : Config) (v : Byte) (x : Drive) :
    (x.mechWrite cfg v).mechWrite cfg v = x.mechWrite cfg v := by
  have noStep (y : Drive) (here : y.phase = portPhase cfg v) : y.step cfg (portPhase cfg v) = y := by
    simp [Drive.step, ← here]
  rw [Drive.mechWrite, noStep _ rfl]
  rfl

/-- MECH_WRITE with the value that port B of PIC2 presents. -/
theorem exec_mechWrite_of_port (drive : s.drives[d]? = some x) (port : v = x.mechPort) :
    exec (.mechWrite d v) s = .next ((s.updateDrive d fun _ => x.mechWrite s.cfg v).returning .none) := by
  have executed : exec (.mechWrite d v) s = .next ((s.updateDrive d (Drive.mechWrite s.cfg v)).returning .none) :=
    (onDrive_of_some drive _).trans (if_pos port)
  rw [executed, State.updateDrive_of_some drive (Drive.mechWrite s.cfg v)]

/-- MECH_WRITE with the value that the mechanics have seen already. -/
theorem exec_mechWrite_of_settled (drive : s.drives[d]? = some x) (port : v = x.mechPort)
    (settled : x.mechWrite s.cfg v = x) : exec (.mechWrite d v) s = .next (s.returning .none) := by
  rw [exec_mechWrite_of_port drive port, settled, State.updateDrive_eq_self drive rfl]

/-- MECH_WRITE with another value is refused (U11). -/
theorem exec_mechWrite_of_other (drive : s.drives[d]? = some x) (other : v ≠ x.mechPort) :
    exec (.mechWrite d v) s = .refused .mechPortValue :=
  (onDrive_of_some drive _).trans (if_neg other)

end MechWrite

/-- Settles O49: the mechanics see the value, and it finds them as it left them a second time. -/
theorem mechWriteStepsTheHeadAndSetsMotorAndLed : Obligations.MechWriteStepsTheHeadAndSetsMotorAndLed := by
  unfold Obligations.MechWriteStepsTheHeadAndSetsMotorAndLed
  intro s d x v drive head
  refine ⟨kindRequest_opsel .., fun port => ?_, exec_mechWrite_of_other drive⟩
  have seen : ((s.updateDrive d fun _ => x.mechWrite s.cfg v).returning .none).drives[d]? =
      some (x.mechWrite s.cfg v) := by simp [drive]
  refine ⟨x.mechWrite s.cfg v, _, x.mechWrite_sees s.cfg v, x.mechWrite_ht_le s.cfg v head, rfl,
    exec_mechWrite_of_port drive port, exec_mechWrite_of_settled seen port (x.mechWrite_mechWrite s.cfg v)⟩

/-! ### What reaches the mechanics (R303) -/

/-- Drive `y` has its head, phase, motor and LED where drive `x` has them. -/
structure MechanicsKept (x y : Drive) : Prop where
  ht : y.ht = x.ht
  phase : y.phase = x.phase
  motor : y.motor = x.motor
  led : y.led = x.led

section Mechanics

variable {cfg : Config} {x y z : Drive}

theorem MechanicsKept.refl (x : Drive) : MechanicsKept x x := ⟨rfl, rfl, rfl, rfl⟩

theorem MechanicsKept.trans (h1 : MechanicsKept x y) (h2 : MechanicsKept y z) : MechanicsKept x z :=
  ⟨h2.ht.trans h1.ht, h2.phase.trans h1.phase, h2.motor.trans h1.motor, h2.led.trans h1.led⟩

theorem MechanicsKept.iterate {f : Drive → Drive} (keeps : ∀ y, MechanicsKept y (f y)) (n : Nat) (x : Drive) :
    MechanicsKept x (f^[n] x) :=
  Function.Iterate.rec (MechanicsKept x) (.refl x) (fun _ hy => hy.trans (keeps _)) n

theorem MechanicsKept.consumeByte (cfg : Config) (t : Nat) (x : Drive) : MechanicsKept x (x.consumeByte cfg t).1 := by
  obtain ⟨inSync, pic2, headByte, tracks, form⟩ := Drive.consumeByte_form cfg t x
  rw [form]
  exact ⟨rfl, rfl, rfl, rfl⟩

/-- The mechanics move on a write, not in time. -/
theorem MechanicsKept.ticks (cfg : Config) (n : Nat) (x : Drive) : MechanicsKept x (x.ticks cfg n).1 :=
  Drive.ticks_induction cfg n (MechanicsKept x) (fun _ hy => hy.trans ⟨rfl, rfl, rfl, rfl⟩)
    (fun _ _ hy => hy.trans ⟨rfl, rfl, rfl, rfl⟩) (fun _ t hy => hy.trans (.consumeByte cfg t _)) x (.refl x)

theorem MechanicsKept.memRead (cfg : Config) (powerOns d addr : Nat) (x : Drive) :
    MechanicsKept x (x.memRead cfg powerOns d addr).2 := by
  rcases Drive.memRead_cases cfg powerOns d addr x with e | ⟨r, e⟩ | ⟨r, e⟩ <;> rw [e] <;> exact ⟨rfl, rfl, rfl, rfl⟩

theorem MechanicsKept.insert (cfg : Config) (image : Image) (id1 id2 : Byte) (x : Drive) :
    MechanicsKept x (x.insert cfg image id1 id2) := by
  unfold Drive.insert
  split <;> exact ⟨rfl, rfl, rfl, rfl⟩

end Mechanics

/-! ### The address map (R104) -/

section AddressMap

variable {cfg : Config} {addr : Nat}

/-- A statement made region by region, in the order of R104, follows from one statement for each target. -/
theorem regions_of_targetOf {ram pic1 pic2 rom unmapped : Prop}
    (onRam : targetOf cfg addr = .ram (addr % 2 ^ cfg.addrW - cfg.ramBase) → ram)
    (onPic1 : targetOf cfg addr = .pic1 (addr % 2 ^ cfg.addrW % 16) → pic1)
    (onPic2 : targetOf cfg addr = .pic2 (addr % 2 ^ cfg.addrW % 16) → pic2)
    (onRom : targetOf cfg addr = .rom (addr % 2 ^ cfg.addrW - cfg.romBase) → rom)
    (onUnmapped : targetOf cfg addr = .unmapped → unmapped) :
    let a := addr % 2 ^ cfg.addrW
    if cfg.ramBase ≤ a ∧ a < cfg.ramBase + cfg.ramSize then ram
    else if cfg.pic1Base ≤ a ∧ a < cfg.pic1Base + 1024 then pic1
    else if cfg.pic2Base ≤ a ∧ a < cfg.pic2Base + 1024 then pic2
    else if cfg.romBase ≤ a ∧ a < cfg.romBase + cfg.romSize then rom
    else unmapped := by
  dsimp only
  split_ifs with inRam inPic1 inPic2 inRom
  · exact onRam (if_pos inRam)
  · exact onPic1 ((if_neg inRam).trans (if_pos inPic1))
  · exact onPic2 ((if_neg inRam).trans ((if_neg inPic1).trans (if_pos inPic2)))
  · exact onRom ((if_neg inRam).trans ((if_neg inPic1).trans ((if_neg inPic2).trans (if_pos inRom))))
  · exact onUnmapped ((if_neg inRam).trans ((if_neg inPic1).trans ((if_neg inPic2).trans (if_neg inRom))))

/-- An address in the window of PIC2 names one of the sixteen registers. -/
theorem targetOf_pic2_lt {r : Nat} (h : targetOf cfg addr = .pic2 r) : r < 16 := by
  simp only [targetOf] at h
  split_ifs at h
  cases h
  exact Nat.mod_lt _ (by decide)

/-- A memory write reaches the mechanics only through registers 0 and 2 of PIC2 (R303). -/
theorem Drive.memWrite_mechanics (cfg : Config) (addr : Nat) (v : Byte) (x : Drive) :
    MechanicsKept x (x.memWrite cfg addr v) ∨ targetOf cfg addr = .pic2 0 ∨ targetOf cfg addr = .pic2 2 := by
  unfold Drive.memWrite
  cases target : targetOf cfg addr with
  | ram offset => exact .inl ⟨rfl, rfl, rfl, rfl⟩
  | pic1 r => exact .inl ⟨rfl, rfl, rfl, rfl⟩
  | rom offset => exact .inl (.refl x)
  | unmapped => exact .inl (.refl x)
  | pic2 r =>
    have index : regIndex r = r := Nat.mod_eq_of_lt (targetOf_pic2_lt target)
    by_cases hooked : r = 0 ∨ r = 2
    · exact .inr (hooked.imp (congrArg Target.pic2) (congrArg Target.pic2))
    · simp only [index, if_neg hooked]
      exact .inl ⟨rfl, rfl, rfl, rfl⟩

end AddressMap

/-- The operations that may move the mechanics of drive `d` (R303): the writes of port B and its direction register of
its PIC2, RESET_PIC there, MECH_WRITE and RESET. -/
def movesMechanics (cfg : Config) (d : Nat) (i : Instr) : Prop :=
  i = .reset ∨ i = .resetPic (.pic2 d) ∨ (∃ v, i = .mechWrite d v) ∨ (∃ v, i = .wrOrb (.pic2 d) v) ∨
    (∃ v, i = .wrDdrb (.pic2 d) v) ∨
    ∃ a v, i = .drvMemwr d a v ∧ (targetOf cfg a = .pic2 0 ∨ targetOf cfg a = .pic2 2)

/-- Every effect on a drive keeps its mechanics, but for those of the operations that may move them. -/
theorem DriveEffect.mechanics {i : Instr} {s : State} {d : Nat} {x y : Drive} (h : DriveEffect i s d x y) :
    MechanicsKept x y ∨ movesMechanics s.cfg d i := by
  cases h with
  | hook f effect op =>
    rcases op with reset | orb | ddrb
    · exact .inr (.inr (.inl reset))
    · exact .inr (.inr (.inr (.inr (.inl orb))))
    · exact .inr (.inr (.inr (.inr (.inr (.inl ddrb)))))
  | mechWrite v value op => exact .inr (.inr (.inr (.inl ⟨v, op⟩)))
  | reset op => exact .inr (.inl op)
  | memWrite a v op =>
    exact (x.memWrite_mechanics s.cfg a v).imp_right fun target =>
      .inr (.inr (.inr (.inr (.inr ⟨a, v, op, target⟩))))
  | push l n => exact .inl (.iterate (f := Drive.pushLines s.cfg l) (fun _ => ⟨rfl, rfl, rfl, rfl⟩) n x)
  | busTick n k => exact .inl (.iterate (.ticks s.cfg n) k x)
  | tick n => exact .inl (.ticks s.cfg n x)
  | memRead a => exact .inl (.memRead s.cfg s.powerOns d a x)
  | insert image id1 id2 => exact .inl (.insert s.cfg image id1 id2 x)
  | same | pic1 | pic2 | atnIn | clkIn | dataIn | eject | setWp | track => exact .inl ⟨rfl, rfl, rfl, rfl⟩

/-- Settles O50: what the drive holds afterwards is an effect of the operation, and an effect keeps the mechanics or
comes from one of the operations listed. -/
theorem onlyPortWritesAndResetsMoveTheMechanics : Obligations.OnlyPortWritesAndResetsMoveTheMechanics := by
  unfold Obligations.OnlyPortWritesAndResetsMoveTheMechanics
  intro i s t d x y hexec hx hy moved
  rcases ((exec_effects i s t hexec).drives d x y hx hy).mechanics with kept | moves
  · rcases moved with ht | phase | motor | led
    · exact absurd kept.ht.symm ht
    · exact absurd kept.phase.symm phase
    · exact absurd kept.motor.symm motor
    · exact absurd kept.led.symm led
  · exact moves

/-! ### A register by its index: RegRead and RegWrite are the register operations (R130) -/

section ByIndex

variable {c : ChipRef} {s : State} {r : Nat}

theorem exec_readInstr (index : r < 16) : exec (readInstr r c) s = readChip c (Pic.regRead r) s := by
  interval_cases r <;> rfl

/-- The writes of port B and its direction register go through the hook of R303. -/
theorem exec_writeInstr_of_hooked (hooked : r = 0 ∨ r = 2) (v : Byte) :
    exec (writeInstr r c v) s = writePortB c (Pic.regWrite r v) s := by
  rcases hooked with rfl | rfl <;> rfl

theorem exec_writeInstr_of_plain (index : r < 16) (plain : ¬ (r = 0 ∨ r = 2)) (v : Byte) :
    exec (writeInstr r c v) s = writeChip c (Pic.regWrite r v) s := by
  interval_cases r
  · exact absurd (.inl rfl) plain
  · rfl
  · exact absurd (.inr rfl) plain
  all_goals rfl

end ByIndex

/-! ### Memory accesses by what the address names (R300, R301) -/

section MemoryAccess

variable {s : State} {d addr r offset : Nat} {x : Drive}

/-- A byte of RAM after a write: the byte written at its offset, every other as before. -/
theorem Drive.ramByte_write (powerOns d i offset : Nat) (v : Byte) (x : Drive) :
    ({ x with ram := Memory.write x.ram i v } : Drive).ramByte powerOns d offset =
      if offset = i then v else x.ramByte powerOns d offset := by
  split
  next here => rw [here, Drive.ramByte, Memory.read_write_same]
  next elsewhere => exact Drive.ramByte_congr (Memory.read_write_other x.ram v (Ne.symm elsewhere)) powerOns d

variable (drive : s.drives[d]? = some x)

include drive

theorem exec_drvMemrd_eq {b : Byte} {y : Drive} (access : x.memRead s.cfg s.powerOns d addr = (b, y)) :
    exec (.drvMemrd d addr) s = .next ((s.updateDrive d fun _ => y).returning (.byte b)) := by
  refine (onDrive_of_some drive _).trans ?_
  rw [access]

/-- A memory read without a side effect. -/
theorem exec_drvMemrd_of_unchanged {b : Byte} (access : x.memRead s.cfg s.powerOns d addr = (b, x)) :
    exec (.drvMemrd d addr) s = .next (s.returning (.byte b)) := by
  rw [exec_drvMemrd_eq drive access, State.updateDrive_eq_self drive rfl]

/-- A memory read that reads register `r` of chip `c` is the register read. -/
theorem exec_drvMemrd_of_register {c : ChipRef} {p : Pic} {y : Drive} (chip : s.chipAt c = some p)
    (stored : s.setChip c (p.regRead r).2 = s.updateDrive d fun _ => y)
    (access : x.memRead s.cfg s.powerOns d addr = ((p.regRead r).1, y)) (index : r < 16) :
    exec (.drvMemrd d addr) s = exec (readInstr r c) s := by
  rw [exec_drvMemrd_eq drive access, exec_readInstr index, readChip_of_some chip, stored]

theorem exec_drvMemwr_eq {v : Byte} {y : Drive} (access : x.memWrite s.cfg addr v = y) :
    exec (.drvMemwr d addr v) s = .next ((s.updateDrive d fun _ => y).returning .none) :=
  onDrive_update_eq drive access .none

/-- A memory write that is dropped. -/
theorem exec_drvMemwr_of_unchanged {v : Byte} (access : x.memWrite s.cfg addr v = x) :
    exec (.drvMemwr d addr v) s = .next (s.returning .none) := by
  rw [exec_drvMemwr_eq drive access, State.updateDrive_eq_self drive rfl]

/-- A write in the window of PIC1 is the register write: the hook of R303 is PIC2's. -/
theorem exec_drvMemwr_pic1 (target : targetOf s.cfg addr = .pic1 r) (index : r < 16) (v : Byte) :
    exec (.drvMemwr d addr v) s = exec (writeInstr r (.pic1 d) v) s := by
  have access : x.memWrite s.cfg addr v = { x with pic1 := x.pic1.regWrite r v } := by rw [Drive.memWrite, target]
  have register : exec (writeInstr r (.pic1 d) v) s =
      .next ((s.setChip (.pic1 d) (x.pic1.regWrite r v)).returning .none) := by
    by_cases hooked : r = 0 ∨ r = 2
    · rw [exec_writeInstr_of_hooked hooked, writePortB_eq_of_not_second (State.chipAt_pic1_of_some drive) rfl rfl]
    · rw [exec_writeInstr_of_plain index hooked, writeChip_of_some (State.chipAt_pic1_of_some drive)]
  rw [exec_drvMemwr_eq drive access, register, State.setChip_pic1_of_some drive]

/-- A write in the window of PIC2 is the register write, with the hook of R303 on both sides or on neither. -/
theorem exec_drvMemwr_pic2 (target : targetOf s.cfg addr = .pic2 r) (index : r < 16) (v : Byte) :
    exec (.drvMemwr d addr v) s = exec (writeInstr r (.pic2 d) v) s := by
  have reduced : regIndex r = r := Nat.mod_eq_of_lt index
  by_cases hooked : r = 0 ∨ r = 2
  · have access : x.memWrite s.cfg addr v = Drive.portHook s.cfg { x with pic2 := x.pic2.regWrite r v } := by
      rw [Drive.memWrite, target]
      exact if_pos (by rwa [reduced])
    rw [exec_drvMemwr_eq drive access, exec_writeInstr_of_hooked hooked, writePortB_pic2_eq drive rfl]
    rfl
  · have access : x.memWrite s.cfg addr v = { x with pic2 := x.pic2.regWrite r v } := by
      rw [Drive.memWrite, target]
      exact if_neg (by rwa [reduced])
    rw [exec_drvMemwr_eq drive access, exec_writeInstr_of_plain index hooked,
      writeChip_of_some (State.chipAt_pic2_of_some drive), State.setChip_pic2_of_some drive]

end MemoryAccess

/-- Settles O51, by what the address names. -/
theorem memoryReadsFollowTheAddressMap : Obligations.MemoryReadsFollowTheAddressMap := by
  unfold Obligations.MemoryReadsFollowTheAddressMap
  intro s d x addr drive
  refine ⟨kindRequest_opsel .., regions_of_targetOf (fun ram => ?_) (fun pic1 => ?_) (fun pic2 => ?_)
    (fun rom => ?_) fun unmapped => ?_⟩
  · exact exec_drvMemrd_of_unchanged drive (by rw [Drive.memRead, ram])
  · exact exec_drvMemrd_of_register drive (State.chipAt_pic1_of_some drive) (State.setChip_pic1_of_some drive _)
      (by rw [Drive.memRead, pic1]) (Nat.mod_lt _ (by decide))
  · exact exec_drvMemrd_of_register drive (State.chipAt_pic2_of_some drive) (State.setChip_pic2_of_some drive _)
      (by rw [Drive.memRead, pic2]) (Nat.mod_lt _ (by decide))
  · exact exec_drvMemrd_of_unchanged drive (by rw [Drive.memRead, rom])
  · exact exec_drvMemrd_of_unchanged drive (by rw [Drive.memRead, unmapped, openBus])

/-- Settles O52, by what the address names; ROM and what is not mapped drop the write alike. -/
theorem memoryWritesFollowTheAddressMap : Obligations.MemoryWritesFollowTheAddressMap := by
  unfold Obligations.MemoryWritesFollowTheAddressMap
  intro s d x addr v drive
  refine ⟨kindRequest_opsel .., ?_⟩
  have regions := regions_of_targetOf (cfg := s.cfg) (addr := addr)
    (ram := ∃ m : Memory,
      exec (.drvMemwr d addr v) s = .next ((s.updateDrive d fun _ => { x with ram := m }).returning .none) ∧
      ∀ offset, ({ x with ram := m } : Drive).ramByte s.powerOns d offset =
        if offset = addr % 2 ^ s.cfg.addrW - s.cfg.ramBase then v else x.ramByte s.powerOns d offset)
    (fun ram => ⟨_, exec_drvMemwr_eq drive (by rw [Drive.memWrite, ram]), fun offset => x.ramByte_write _ d _ offset v⟩)
    (fun pic1 => exec_drvMemwr_pic1 drive pic1 (Nat.mod_lt _ (by decide)) v)
    (fun pic2 => exec_drvMemwr_pic2 drive pic2 (Nat.mod_lt _ (by decide)) v)
    (fun rom => exec_drvMemwr_of_unchanged drive (v := v) (by rw [Drive.memWrite, rom]))
    (fun unmapped => exec_drvMemwr_of_unchanged drive (v := v) (by rw [Drive.memWrite, unmapped]))
  simp only [ite_self] at regions
  exact regions

/-! ### The disk (R295, R296) -/

/-- Settles O53: each is one change of the drive; the two status bits are placed one bit at a time. -/
theorem insertEjectAndWriteProtect : Obligations.InsertEjectAndWriteProtect := by
  unfold Obligations.InsertEjectAndWriteProtect
  intro s d x drive
  have shown (i : Nat) (b : Bool) : ∀ k, k < 8 →
      (setBit x.pic2.inb i b).getLsbD k = if k = i then b else x.pic2.inb.getLsbD k :=
    fun k hk => setBit_bit x.pic2.inb i k b hk
  refine ⟨kindRequest_opsel .., _, x.eject s.cfg, shown s.cfg.mSync true, rfl, onDrive_update_eq drive rfl .none,
    fun image id1 id2 total => ?_, fun protect => ?_⟩
  · refine ⟨kindRequest_opsel .., (List.range s.cfg.numTracks).map fun k => buildTrack s.cfg (k + 1) image id1 id2, _,
      by rw [List.length_map, List.length_range], fun t first last => ?_, rfl, ?_⟩
    · rw [List.getElem?_map, List.getElem?_range (by omega), Option.map_some, Nat.sub_add_cancel first]
    · have executed : exec (.drvInsert d image id1 id2) s = .next (((s.updateDrive d
          (Drive.insert s.cfg image id1 id2)).emit (insertEvents s.cfg image id1 id2)).returning .none) :=
        (onDrive_of_some drive _).trans (if_pos total)
      rw [executed, State.updateDrive_of_some drive (Drive.insert s.cfg image id1 id2)]
      rfl
  · exact ⟨kindRequest_opsel .., _, shown s.cfg.mWps (!protect), onDrive_update_eq drive rfl .none⟩

end Sys2Proof.Machine

/-! PROOFS. The family of spec/70_reset_and_hazards.md: the chip reset (R350), and the mechanics that follow the output
bits of PIC2's port B (R354). The hook of R303 makes them follow whatever they were before; every other change keeps the
two registers of port B and the mechanics alike. -/

namespace Sys2Proof.Machine

-- As in the part on spec/41_pic_timers_lines.md: the proofs of this part take no thread each.
set_option Elab.async false

/-! ### Which changes keep the registers of port B (R303) -/

/-- Chip `q` has the output and direction registers of port B of chip `p`. -/
structure SamePort (p q : Pic) : Prop where
  orb : q.orb = p.orb
  ddrb : q.ddrb = p.ddrb

theorem SamePort.refl (p : Pic) : SamePort p p := ⟨rfl, rfl⟩

/-- A chip change that is not one of the hooked ones keeps the port. -/
theorem PicEffect.samePort {i : Instr} {f : Pic → Pic} (h : PicEffect i false f) (p : Pic) : SamePort p (f p) :=
  ⟨(h.port p rfl).1, (h.port p rfl).2⟩

theorem SamePort.clearA (p : Pic) : SamePort p p.clearA := (PicEffect.clearA .reset false).samePort p

theorem SamePort.clearB (p : Pic) : SamePort p p.clearB := (PicEffect.clearB .reset false).samePort p

theorem SamePort.ticks (cfg : Config) (n : Nat) (p : Pic) : SamePort p (p.ticks cfg n) :=
  (PicEffect.ticks .busUpdate false cfg n rfl).samePort p

theorem SamePort.signal (x : Drive) : SamePort x.pic2 x.signal.pic2 := by
  rw [Drive.signal_eq]
  exact ⟨rfl, rfl⟩

/-- A register read keeps the port: at most it clears flags. -/
theorem SamePort.regRead (r : Nat) (p : Pic) : SamePort p (p.regRead r).2 := by
  unfold Pic.regRead
  split
  case h_1 => exact .clearB p
  case h_2 => exact .clearA p
  all_goals exact ⟨rfl, rfl⟩

/-- A register write outside the hook of R303 keeps the port: only registers 0 and 2 hold it. -/
theorem SamePort.regWrite {r : Nat} (plain : ¬ (regIndex r = 0 ∨ regIndex r = 2)) (v : Byte) (p : Pic) :
    SamePort p (p.regWrite r v) := by
  unfold Pic.regWrite
  split
  case h_1 zero => exact absurd (.inl zero) plain
  case h_2 => exact ⟨(SamePort.clearA { p with ora := v }).orb, (SamePort.clearA { p with ora := v }).ddrb⟩
  case h_3 two => exact absurd (.inr two) plain
  all_goals exact ⟨rfl, rfl⟩

/-- A consumed byte reaches the inputs and CA1 of PIC2, not its port B registers (R271, R272). -/
theorem SamePort.consumeByte (cfg : Config) (t : Nat) (x : Drive) : SamePort x.pic2 (x.consumeByte cfg t).1.pic2 := by
  rcases Drive.consumeByte_cases cfg t x with idle | ⟨b, m, -, quiet | signalled⟩
  · rw [idle]; exact .refl _
  · rw [quiet]; exact ⟨rfl, rfl⟩
  · rw [signalled]
    have signal := SamePort.signal (x.byteShown t b m)
    exact ⟨signal.orb, signal.ddrb⟩

/-- An insert reaches PIC2 by the eject before it only, which sets an input (R295). -/
theorem SamePort.insert (cfg : Config) (image : Image) (id1 id2 : Byte) (x : Drive) :
    SamePort x.pic2 (x.insert cfg image id1 id2).pic2 := by
  unfold Drive.insert
  split <;> exact ⟨rfl, rfl⟩

/-! ### The mechanics follow the port (R354) -/

section Follow

variable {cfg : Config} {x y : Drive}

/-- The hook makes the mechanics follow the port, wherever they were before. -/
theorem MechanicsFollow.portHook (cfg : Config) (x : Drive) : MechanicsFollow cfg (x.portHook cfg) := ⟨rfl, rfl, rfl⟩

/-- Where neither the port nor the mechanics move, the mechanics keep following. -/
theorem MechanicsFollow.congr (h : MechanicsFollow cfg x) (port : SamePort x.pic2 y.pic2) (kept : MechanicsKept x y) :
    MechanicsFollow cfg y where
  phase := by rw [kept.phase, port.orb, port.ddrb, h.phase]
  motor := by rw [kept.motor, port.orb, port.ddrb, h.motor]
  led := by rw [kept.led, port.orb, port.ddrb, h.led]

theorem MechanicsFollow.withPic2 (h : MechanicsFollow cfg x) {p : Pic} (port : SamePort x.pic2 p) :
    MechanicsFollow cfg { x with pic2 := p } := h.congr port ⟨rfl, rfl, rfl, rfl⟩

theorem MechanicsFollow.iterate {f : Drive → Drive} (keeps : ∀ y, MechanicsFollow cfg y → MechanicsFollow cfg (f y))
    (h : MechanicsFollow cfg x) (n : Nat) : MechanicsFollow cfg (f^[n] x) :=
  Function.Iterate.rec (MechanicsFollow cfg) h keeps n

theorem MechanicsFollow.ticks (h : MechanicsFollow cfg x) (n : Nat) : MechanicsFollow cfg (x.ticks cfg n).1 :=
  Drive.ticks_induction cfg n (MechanicsFollow cfg)
    (fun y hy => hy.congr (.ticks cfg n y.pic2) ⟨rfl, rfl, rfl, rfl⟩)
    (fun _ _ hy => hy.congr (.refl _) ⟨rfl, rfl, rfl, rfl⟩)
    (fun y t hy => hy.congr (.consumeByte cfg t y) (.consumeByte cfg t y)) x h

theorem MechanicsFollow.memRead (h : MechanicsFollow cfg x) (powerOns d addr : Nat) :
    MechanicsFollow cfg (x.memRead cfg powerOns d addr).2 := by
  rcases Drive.memRead_cases cfg powerOns d addr x with e | ⟨r, e⟩ | ⟨r, e⟩ <;> rw [e]
  · exact h
  · exact h.congr (.refl _) ⟨rfl, rfl, rfl, rfl⟩
  · exact h.withPic2 (.regRead r x.pic2)

/-- A memory write moves the port only where the hook acts (R301, R303). -/
theorem MechanicsFollow.memWrite (h : MechanicsFollow cfg x) (addr : Nat) (v : Byte) :
    MechanicsFollow cfg (x.memWrite cfg addr v) := by
  unfold Drive.memWrite
  cases targetOf cfg addr with
  | ram offset => exact h.congr (.refl _) ⟨rfl, rfl, rfl, rfl⟩
  | pic1 r => exact h.congr (.refl _) ⟨rfl, rfl, rfl, rfl⟩
  | pic2 r =>
    by_cases hooked : regIndex r = 0 ∨ regIndex r = 2
    · simp only [if_pos hooked]
      exact .portHook cfg _
    · simp only [if_neg hooked]
      exact h.withPic2 (.regWrite hooked v x.pic2)
  | rom offset => exact h
  | unmapped => exact h

end Follow

/-- Every effect of an operation on a drive keeps the mechanics following: the hook, MECH_WRITE with the port's value and
RESET make them follow, the others keep the port and the mechanics. -/
theorem DriveEffect.keeps_following {i : Instr} {s : State} {d : Nat} {x y : Drive} (h : MechanicsFollow s.cfg x)
    (effect : DriveEffect i s d x y) : MechanicsFollow s.cfg y := by
  cases effect with
  | hook f => exact .portHook s.cfg _
  | mechWrite v value =>
    subst value
    exact .portHook s.cfg x
  | reset => exact .reset s.cfg x.rom
  | pic2 f unhooked => exact h.withPic2 (unhooked.samePort x.pic2)
  | push l n => exact h.iterate (f := Drive.pushLines s.cfg l) (fun _ hy => hy.congr ⟨rfl, rfl⟩ ⟨rfl, rfl, rfl, rfl⟩) n
  | busTick n k => exact h.iterate (fun _ hy => hy.ticks n) k
  | tick n => exact h.ticks n
  | memRead a => exact h.memRead s.powerOns d a
  | memWrite a v => exact h.memWrite a v
  | insert image id1 id2 => exact h.congr (.insert s.cfg image id1 id2 x) (.insert s.cfg image id1 id2 x)
  | same | pic1 | atnIn | clkIn | dataIn | eject | setWp | track => exact h.congr ⟨rfl, rfl⟩ ⟨rfl, rfl, rfl, rfl⟩

/-- Settles O55: what a drive holds after an operation is an effect on what it held before, and every effect keeps the
mechanics following. -/
theorem mechanicsKeepFollowingTheMechanicsPort : Obligations.MechanicsKeepFollowingTheMechanicsPort := by
  unfold Obligations.MechanicsKeepFollowingTheMechanicsPort
  intro i s t follow hexec y hy
  have effects := exec_effects i s t hexec
  obtain ⟨d, hd⟩ := List.mem_iff_getElem?.mp hy
  obtain ⟨x, hx, effect⟩ := effects.drive_before hd
  rw [effects.cfg]
  exact effect.keeps_following (follow x (List.mem_of_getElem? hx))

/-! ### The chip reset (R350) -/

/-- Settles O25: RESET_PIC is a port B write that makes the reset chip, and port B of the reset chip presents 0. -/
theorem resetPicClearsTheChipAndKeepsItsPins : Obligations.ResetPicClearsTheChipAndKeepsItsPins := by
  unfold Obligations.ResetPicClearsTheChipAndKeepsItsPins
  intro s c p q chip cleared
  have change : p.resetPic = q := cleared.symm
  refine ⟨pinRequest_plain_opsel 0b0111 c [], fun notSecond => writePortB_eq_of_not_second chip notSecond change, ?_⟩
  rintro d x rfl hx
  obtain rfl : x.pic2 = p := by simpa [State.chipAt, hx] using chip
  have port : q.orb &&& q.ddrb = 0 := by rw [cleared]; exact BitVec.and_self
  exact ⟨_, port ▸ Drive.mechWrite_sees .., writePortB_pic2_eq hx change⟩

end Sys2Proof.Machine

/-! PROOFS. The family of spec/60_exceptions.md: on which inputs an operation completes (R320, U8, U9, U11, U14), and
which units it leaves as they were (R330, R333). `Fault` has no constructor, so what does not complete is
refused, and it is enough to say when the outcome is a next state. -/

namespace Sys2Proof.Machine

-- As in the part on spec/41_pic_timers_lines.md: the proofs of this part take no thread each.
set_option Elab.async false

/-! ### When an outcome is a next state (R320) -/

/-- The outcome is a next state. -/
def Completes (o : Host.Outcome State Fault Refusal) : Prop := ∃ t, o = .next t

theorem completes_next (t : State) : Completes (.next t) := ⟨t, rfl⟩

theorem not_completes_refused (r : Refusal) : ¬ Completes (.refused r) := by
  rintro ⟨t, h⟩
  cases h

/-- What does not complete is refused: there is no fault. -/
theorem exists_refused_of_not_completes {o : Host.Outcome State Fault Refusal} (h : ¬ Completes o) :
    ∃ r, o = .refused r := by
  cases o with
  | next t => exact absurd (completes_next t) h
  | fault f => cases f
  | refused r => exact ⟨r, rfl⟩

/-- Behind a test that refuses when it fails, the test comes on top. -/
theorem completes_ite_iff {P : Prop} [Decidable P] {o : Host.Outcome State Fault Refusal} {why : Refusal} :
    Completes (if P then o else .refused why) ↔ P ∧ Completes o := by
  by_cases h : P
  · rw [if_pos h, and_iff_right h]
  · rw [if_neg h]
    exact iff_of_false (not_completes_refused why) fun both => h both.1

/-- A test that decides alone whether the operation completes. -/
theorem completes_ite_next_iff {P : Prop} [Decidable P] {t : State} {why : Refusal} :
    Completes (if P then .next t else .refused why) ↔ P :=
  completes_ite_iff.trans (and_iff_left (completes_next t))

/-! ### When the shared operations complete (U8) -/

section Shared

variable {s : State} {c : ChipRef} {d t : Nat}

theorem hasDrive_iff : s.hasDrive d ↔ ∃ x, s.drives[d]? = some x :=
  ⟨fun present => ⟨_, List.getElem?_eq_getElem present⟩, fun ⟨_, hx⟩ => (List.getElem?_eq_some_iff.mp hx).1⟩

/-- The standalone chip is always there; a drive's chip is there with its drive. -/
theorem hasChip_iff : s.hasChip c ↔ ∃ p, s.chipAt c = some p := by
  cases c with
  | standalone => exact iff_of_true trivial ⟨s.chip, rfl⟩
  | pic1 d | pic2 d =>
    simp [State.hasChip, hasDrive_iff, State.chipAt]

/-- An operation that answers from a chip, and only from it, completes where the chip is there. -/
theorem completes_iff_hasChip {o : Host.Outcome State Fault Refusal} {k : Pic → State}
    (next : ∀ {u}, o = .next u → ∃ p, s.chipAt c = some p ∧ u = k p)
    (found : ∀ {p}, s.chipAt c = some p → o = .next (k p)) : Completes o ↔ s.hasChip c := by
  rw [hasChip_iff]
  constructor
  · rintro ⟨u, h⟩
    obtain ⟨p, hp, -⟩ := next h
    exact ⟨p, hp⟩
  · rintro ⟨p, hp⟩
    exact ⟨k p, found hp⟩

theorem completes_readChip_iff {f : Pic → Byte × Pic} : Completes (readChip c f s) ↔ s.hasChip c :=
  completes_iff_hasChip readChip_next (readChip_of_some · f)

theorem completes_writeChip_iff {f : Pic → Pic} : Completes (writeChip c f s) ↔ s.hasChip c :=
  completes_iff_hasChip writeChip_next (writeChip_of_some · f)

theorem completes_writePortB_iff {f : Pic → Pic} : Completes (writePortB c f s) ↔ s.hasChip c :=
  completes_iff_hasChip writePortB_next (writePortB_of_some · f)

/-- An operation on a drive completes where the drive is there and its continuation completes. -/
theorem completes_onDrive_iff {k : Drive → Host.Outcome State Fault Refusal} :
    Completes (onDrive s d k) ↔ ∃ x, s.drives[d]? = some x ∧ Completes (k x) := by
  constructor
  · rintro ⟨u, h⟩
    obtain ⟨x, hx, h⟩ := onDrive_next h
    exact ⟨x, hx, u, h⟩
  · rintro ⟨x, hx, h⟩
    rwa [onDrive_of_some hx]

/-- The same with a continuation that completes on a condition that does not look at the drive. -/
theorem completes_onDrive_iff_and {k : Drive → Host.Outcome State Fault Refusal} {P : Prop}
    (rest : ∀ x, Completes (k x) ↔ P) : Completes (onDrive s d k) ↔ s.hasDrive d ∧ P := by
  simp only [completes_onDrive_iff, rest, exists_and_right, hasDrive_iff]

/-- The same with a continuation that always completes. -/
theorem completes_onDrive_next_iff {k : Drive → State} :
    Completes (onDrive s d fun x => .next (k x)) ↔ s.hasDrive d :=
  (completes_onDrive_iff_and fun x => iff_true_intro (completes_next (k x))).trans (and_iff_left trivial)

/-- An operation on a track completes where the track's buffer is there and its continuation completes. -/
theorem completes_onTrack_iff {k : Track → Host.Outcome State Fault Refusal} {P : Prop}
    (rest : ∀ b, Completes (k b) ↔ P) : Completes (onTrack s d t k) ↔ s.hasTrack d t ∧ P := by
  constructor
  · rintro ⟨u, h⟩
    obtain ⟨x, b, drive, range, disk, found, h⟩ := onTrack_next h
    exact ⟨⟨range, x, b, drive, disk, found⟩, (rest b).mp ⟨u, h⟩⟩
  · rintro ⟨⟨range, x, b, drive, disk, found⟩, h⟩
    rw [onTrack_of_some drive range disk found]
    exact (rest b).mpr h

/-- The same with a continuation that always completes. -/
theorem completes_onTrack_next_iff {k : Track → State} :
    Completes (onTrack s d t fun b => .next (k b)) ↔ s.hasTrack d t :=
  (completes_onTrack_iff fun b => iff_true_intro (completes_next (k b))).trans (and_iff_left trivial)

end Shared

/-! ### When an operation completes -/

/-- An operation completes exactly in its domain: by the shared operation through which it acts. -/
theorem completes_exec_iff (i : Instr) (s : State) : Completes (exec i s) ↔ inDomain i s := by
  cases i with
  | rdOrb c | rdOra c | rdDdrb c | rdDdra c | rdT1cl c | rdT1ch c | rdT1ll c | rdT1lh c
  | rdT2cl c | rdT2ch c | rdSr c | rdAcr c | rdPcr c | rdIfr c | rdIer c | rdOranh c => exact completes_readChip_iff
  | wrOrb c v | wrDdrb c v => exact completes_writePortB_iff
  | resetPic c => exact completes_writePortB_iff
  | wrOra c v | wrDdra c v | wrT1cl c v | wrT1ch c v | wrT1ll c v | wrT1lh c v | wrT2cl c v | wrT2ch c v
  | wrSr c v | wrAcr c v | wrPcr c v | wrIfr c v | wrIer c v | wrOranh c v => exact completes_writeChip_iff
  | setCa1 c l | setCa2 c l | setCb1 c l | setCb2 c l => exact completes_writeChip_iff
  | setPaIn c v | setPbIn c v => exact completes_writeChip_iff
  | tick c n => exact completes_writeChip_iff
  | hostSet a c d => exact iff_true_intro (completes_next _)
  | busUpdate | busGetHostInput | reset => exact iff_true_intro (completes_next _)
  | busTick n => exact iff_true_intro (completes_next _)
  | busAttach d | busDetach d | drvGetClkOut d | drvGetDataOut d | drvEject d => exact completes_onDrive_next_iff
  | drvSetAtnIn d l | drvSetClkIn d l | drvSetDataIn d l => exact completes_onDrive_next_iff
  | drvTick d n => exact completes_onDrive_next_iff
  | drvMemrd d a => exact completes_onDrive_next_iff
  | drvMemwr d a v => exact completes_onDrive_next_iff
  | drvSetWp d b => exact completes_onDrive_next_iff
  | drvInsert d image a b => exact completes_onDrive_iff_and fun _ => completes_ite_next_iff
  | mechWrite d v =>
    exact completes_onDrive_iff.trans (exists_congr fun x => and_congr_right' completes_ite_next_iff)
  | gcrEncGroup a b c d => exact iff_true_intro (completes_next _)
  | gcrDecGroup a b c d e => exact iff_true_intro (completes_next _)
  | gcrEncHeader a b c d => exact iff_true_intro (completes_next _)
  | gcrDecHeader frame => exact completes_ite_next_iff
  | gcrEncData payload => exact completes_ite_next_iff
  | gcrDecData frame => exact completes_ite_next_iff
  | trkReadByte d t | trkIsSync d t => exact completes_onTrack_next_iff
  | trkWriteByte d t v => exact completes_onTrack_next_iff
  | trkBuild d t image a b => exact completes_onTrack_iff fun _ => completes_ite_next_iff
  | trkUpdateSector d t image n a b =>
    exact completes_onTrack_iff fun _ => completes_ite_iff.trans (and_congr_right' completes_ite_next_iff)

/-- Settles O5: an operation completes exactly in its domain, and what does not complete is refused. -/
theorem operationsCompleteExactlyInTheirDomain : Obligations.OperationsCompleteExactlyInTheirDomain := by
  unfold Obligations.OperationsCompleteExactlyInTheirDomain
  intro i s
  have exactly := completes_exec_iff i s
  exact ⟨exactly.mpr, fun outside => exists_refused_of_not_completes (mt exactly.mp outside)⟩

/-! ### The drives an operation may change (R330, R333) -/

section Named

variable {i : Instr} {s : State} {d : Nat}

/-- An operation on a chip of a drive names that drive and may change it. -/
theorem mayChangeDrive_of_chipNamed {c : ChipRef} (named : chipNamed i = some c) (inside : driveOf c = some d) :
    mayChangeDrive i s d := by
  have drive : (chipNamed i).bind driveOf = some d := by rw [named]; exact inside
  cases i with
  | rdOrb | rdOra | rdDdrb | rdDdra | rdT1cl | rdT1ch | rdT1ll | rdT1lh | rdT2cl | rdT2ch | rdSr | rdAcr | rdPcr
  | rdIfr | rdIer | rdOranh | wrOrb | wrOra | wrDdrb | wrDdra | wrT1cl | wrT1ch | wrT1ll | wrT1lh | wrT2cl | wrT2ch
  | wrSr | wrAcr | wrPcr | wrIfr | wrIer | wrOranh | setCa1 | setCa2 | setCb1 | setCb2 | setPaIn | setPbIn | tick
  | resetPic => exact drive
  | _ => cases named

/-- A track operation may change the drive it names, but for the sync test, which changes nothing. -/
theorem mayChangeDrive_of_trackNamed {t : Nat} (named : trackNamed i = some (d, t)) (test : ∀ u, i ≠ .trkIsSync d u) :
    mayChangeDrive i s d := by
  cases i with
  | trkReadByte | trkWriteByte | trkBuild | trkUpdateSector => cases named; exact rfl
  | trkIsSync e u => cases named; exact absurd rfl (test t)
  | _ => cases named

end Named

/-- Every effect on a drive is of an operation that may change it, or leaves it as it was. -/
theorem DriveEffect.mayChangeDrive_or_eq {i : Instr} {s : State} {d : Nat} {x y : Drive}
    (h : DriveEffect i s d x y) : mayChangeDrive i s d ∨ y = x := by
  cases h with
  | same => exact .inr rfl
  | pic1 f effect named => exact .inl (mayChangeDrive_of_chipNamed named rfl)
  | pic2 f effect named => exact .inl (mayChangeDrive_of_chipNamed named rfl)
  | hook f effect op => obtain rfl | ⟨v, rfl⟩ | ⟨v, rfl⟩ := op <;> exact .inl rfl
  | push l n op attached =>
    subst op
    exact (Nat.eq_zero_or_pos n).symm.imp (fun pushed => attached pushed.ne') (by rintro rfl; rfl)
  | busTick n k op attached =>
    subst op
    exact (Nat.eq_zero_or_pos k).symm.imp (fun ticked => attached ticked.ne') (by rintro rfl; rfl)
  | track t b b' range disk found effect op =>
    obtain ⟨named, test⟩ := op
    exact .inl (mayChangeDrive_of_trackNamed named test)
  | reset op => subst op; exact .inl trivial
  | atnIn _ op | clkIn _ op | dataIn _ op | tick _ op | memRead _ op | memWrite _ _ op | insert _ _ _ _ op | eject op
  | setWp _ op | mechWrite _ _ op => subst op; exact .inl rfl

/-- A drive that the operation may not change is as it was, also where there is none. -/
theorem Effects.drive_unchanged {i : Instr} {s t : State} (h : Effects i s t) {d : Nat}
    (unnamed : ¬ mayChangeDrive i s d) : t.drives[d]? = s.drives[d]? := by
  cases hy : t.drives[d]? with
  | none => exact (List.getElem?_eq_none_iff.mpr (h.count ▸ List.getElem?_eq_none_iff.mp hy)).symm
  | some y =>
    obtain ⟨x, hx, effect⟩ := h.drive_before hy
    obtain rfl := effect.mayChangeDrive_or_eq.resolve_left unnamed
    exact hx.symm

/-- The standalone chip is as it was, but for the operations on it and RESET. -/
theorem Effects.chip_unchanged {i : Instr} {s t : State} (h : Effects i s t) (other : ¬ mayChangeChip i) :
    t.chip = s.chip := by
  rcases h.chip with same | ⟨named, -⟩ | ⟨reset, -⟩
  · exact same
  · exact absurd (.inr named) other
  · exact absurd (.inl reset) other

/-- Settles O59, from what the effects of an operation leave alone. -/
theorem unitsNotAddressedAreUnchanged : Obligations.UnitsNotAddressedAreUnchanged := by
  unfold Obligations.UnitsNotAddressedAreUnchanged
  intro i s t h
  have effects := exec_effects i s t h
  exact ⟨fun d => effects.drive_unchanged, effects.chip_unchanged, effects.bus, effects.cfg, effects.pending,
    effects.count, effects.trace⟩

end Sys2Proof.Machine
